-- ==== Sys2Proof/Word.lean ====
section
/-! DEFINITION. The word types of GOFFL-CORE (00_scope.md R11, R12). -/

namespace Sys2Proof

/-- A 64-bit word: a register, a bank cell, a host-window word (R11). Bit 0 is the least significant (R13). -/
abbrev Word := BitVec 64

/-- A 32-bit command word (R12, R80). -/
abbrev CmdWord := BitVec 32

/-- A register number, 0 to 15 (R82). -/
abbrev Reg := BitVec 4

/-- A host-window word index, 0x00 to 0x1F (20_memory.md R62). -/
abbrev WinIndex := BitVec 5

end Sys2Proof
end

