-- ==== Sys2Proof/Syntax.lean ====
section
/-! DEFINITION. The commands of GOFFL-CORE: one constructor per row of spec/opcode_table.json, the operands in
assembler order (destinations, then sources; 30_encoding.md R83, R90). -/

namespace Sys2Proof

/-- A legal command (30_encoding.md R83). The register fields are the operands the command's format uses (R82). -/
inductive Instr where
  -- BitVector and BitMatrix (40_bitvector_bitmatrix.md)
  /-- MNEW, op 0x10, R101: rs1 = rows, rs2 = cols. -/
  | mnew (rs1 rs2 : Reg)
  /-- MSETROW, op 0x11, R102: rs1 = row, rs2 = value. -/
  | msetrow (rs1 rs2 : Reg)
  /-- MGETROW, op 0x12, R103: rd, rs1 = row. -/
  | mgetrow (rd rs1 : Reg)
  /-- KGETROW, op 0x13, R104: rd, rs1 = row. -/
  | kgetrow (rd rs1 : Reg)
  /-- BVGET, op 0x14, R105: rd, rs1 = row, rs2 = j. -/
  | bvget (rd rs1 rs2 : Reg)
  /-- BVSET, op 0x15, R106: rs1 = row, rs2 = j. -/
  | bvset (rs1 rs2 : Reg)
  /-- BVTGL, op 0x16, R107: rs1 = row, rs2 = j. -/
  | bvtgl (rs1 rs2 : Reg)
  /-- BVLEAD, op 0x17, R109: rd, rs1 = row. -/
  | bvlead (rd rs1 : Reg)
  /-- MREF, op 0x18, R114: no operands. -/
  | mref
  /-- MRANK, op 0x19, R115: rd. -/
  | mrank (rd : Reg)
  /-- MKER, op 0x1A, R116: no operands. -/
  | mker
  -- F2Poly (41_f2poly.md)
  /-- PDEG, op 0x20, R140: rd, rs1. -/
  | pdeg (rd rs1 : Reg)
  /-- PADD, op 0x21, R141: rd, rs1, rs2. -/
  | padd (rd rs1 rs2 : Reg)
  /-- PSUB, op 0x22, R142: rd, rs1, rs2. -/
  | psub (rd rs1 rs2 : Reg)
  /-- PMUL, op 0x23, R143: rd, rs1, rs2. -/
  | pmul (rd rs1 rs2 : Reg)
  /-- PQUOREM, op 0x24, R144: rd = quotient, rd2 = remainder, rs1, rs2. -/
  | pquorem (rd rd2 rs1 rs2 : Reg)
  /-- PPOW, op 0x25, R145: rd, rs1, rs2 = e. -/
  | ppow (rd rs1 rs2 : Reg)
  /-- PGCD, op 0x26, R146: rd, rs1, rs2. -/
  | pgcd (rd rs1 rs2 : Reg)
  /-- PXGCD, op 0x27, R147: rd = g, rd2 = s, rd3 = t, rs1, rs2. -/
  | pxgcd (rd rd2 rd3 rs1 rs2 : Reg)
  /-- PDERIV, op 0x28, R148: rd, rs1. -/
  | pderiv (rd rs1 : Reg)
  /-- PSQRT, op 0x29, R149: rd = root, rd2 = ok, rs1. -/
  | psqrt (rd rd2 rs1 : Reg)
  -- F2PolyFactor (42_f2polyfactor.md)
  /-- BKMAT, op 0x30, R172: rs1 = f. -/
  | bkmat (rs1 : Reg)
  /-- PFACTOR, op 0x31, R173: rs1 = f. -/
  | pfactor (rs1 : Reg)
  /-- FGET, op 0x32, R174: rd = base, rd2 = multiplicity, rs1 = index. -/
  | fget (rd rd2 rs1 : Reg)
  /-- PIRR, op 0x33, R175: rd, rs1. -/
  | pirr (rd rs1 : Reg)
  /-- PLOWIRR, op 0x34, R176: rd, rs1 = degree. -/
  | plowirr (rd rs1 : Reg)
  /-- PRANDIRR, op 0x35, R177: rd, rs1 = degree. -/
  | prandirr (rd rs1 : Reg)
  /-- PTOTIENT, op 0x36, R178: rd, rs1. -/
  | ptotient (rd rs1 : Reg)
  -- F2PolyMod (43_f2polymod.md)
  /-- PMSETMOD, op 0x40, R193: rs1 = m. -/
  | pmsetmod (rs1 : Reg)
  /-- PMRED, op 0x41, R194: rd, rs1. -/
  | pmred (rd rs1 : Reg)
  /-- PMADD, op 0x42, R195: rd, rs1, rs2. -/
  | pmadd (rd rs1 rs2 : Reg)
  /-- PMSUB, op 0x43, R196: rd, rs1, rs2. -/
  | pmsub (rd rs1 rs2 : Reg)
  /-- PMMUL, op 0x44, R197: rd, rs1, rs2. -/
  | pmmul (rd rs1 rs2 : Reg)
  /-- PMDIV, op 0x45, R198: rd, rs1, rs2. -/
  | pmdiv (rd rs1 rs2 : Reg)
  /-- PMRECIP, op 0x46, R199: rd, rs1. -/
  | pmrecip (rd rs1 : Reg)
  /-- PMPOW, op 0x47, R201: rd, rs1, rs2 = e. -/
  | pmpow (rd rs1 rs2 : Reg)
  /-- PMNEXTU, op 0x48, R200: rd, rs1 = previous. -/
  | pmnextu (rd rs1 : Reg)
  -- IntArith and IntFactor (44_intarith.md)
  /-- IGCD, op 0x50, R221: rd, rs1, rs2. -/
  | igcd (rd rs1 rs2 : Reg)
  /-- IXGCD, op 0x51, R222: rd = g, rd2 = s, rd3 = t, rs1, rs2. -/
  | ixgcd (rd rd2 rd3 rs1 rs2 : Reg)
  /-- ILCM, op 0x52, R223: rd, rs1, rs2. -/
  | ilcm (rd rs1 rs2 : Reg)
  /-- IPHI, op 0x53, R224: rd, rs1. -/
  | iphi (rd rs1 : Reg)
  /-- IMODEXP, op 0x54, R225: rd, rs1 = x, rs2 = e, rs3 = m. -/
  | imodexp (rd rs1 rs2 rs3 : Reg)
  /-- IMODRECIP, op 0x55, R226: rd, rs1 = x, rs2 = m. -/
  | imodrecip (rd rs1 rs2 : Reg)
  /-- IFACT, op 0x56, R228: rd, rs1. -/
  | ifact (rd rs1 : Reg)
  /-- IFACTOR, op 0x57, R229: rs1 = n. -/
  | ifactor (rs1 : Reg)
  /-- IDIVNEXT, op 0x58, R227: rd, rs1 = n, rs2 = previous. -/
  | idivnext (rd rs1 rs2 : Reg)
  /-- ITOTIENT, op 0x59, R230: rd, rs1. -/
  | itotient (rd rs1 : Reg)
  -- IntMod (45_intmod.md)
  /-- IMSETMOD, op 0x60, R241: rs1 = m. -/
  | imsetmod (rs1 : Reg)
  /-- IMRED, op 0x61, R242: rd, rs1. -/
  | imred (rd rs1 : Reg)
  /-- IMADD, op 0x62, R243: rd, rs1, rs2. -/
  | imadd (rd rs1 rs2 : Reg)
  /-- IMSUB, op 0x63, R244: rd, rs1, rs2. -/
  | imsub (rd rs1 rs2 : Reg)
  /-- IMMUL, op 0x64, R245: rd, rs1, rs2. -/
  | immul (rd rs1 rs2 : Reg)
  /-- IMDIV, op 0x65, R246: rd, rs1, rs2. -/
  | imdiv (rd rs1 rs2 : Reg)
  /-- IMRECIP, op 0x66, R247: rd, rs1. -/
  | imrecip (rd rs1 : Reg)
  /-- IMPOW, op 0x67, R248: rd, rs1, rs2 = e. -/
  | impow (rd rs1 rs2 : Reg)
  /-- IMNEXTU, op 0x68, R250: rd, rs1 = previous. -/
  | imnextu (rd rs1 : Reg)
  -- Order (46_order.md)
  /-- IMORDER, op 0x70, R261: rd, rs1. -/
  | imorder (rd rs1 : Reg)
  /-- PMORDER, op 0x71, R262: rd, rs1. -/
  | pmorder (rd rs1 : Reg)
  /-- IMMAXORD, op 0x72, R263: rd. -/
  | immaxord (rd : Reg)
  /-- PMMAXORD, op 0x73, R264: rd. -/
  | pmmaxord (rd : Reg)
  /-- IMGEN, op 0x74, R265: rd. -/
  | imgen (rd : Reg)
  /-- PMGEN, op 0x75, R266: rd. -/
  | pmgen (rd : Reg)
  /-- PPRIM, op 0x76, R267: rd, rs1 = m. -/
  | pprim (rd rs1 : Reg)
  deriving DecidableEq, Repr

/-- The destination registers a command names, in the order rd, rd2, rd3 (30_encoding.md R82, R83). -/
def Instr.dests : Instr → List Reg
  | .mnew _ _ => []
  | .msetrow _ _ => []
  | .mgetrow rd _ => [rd]
  | .kgetrow rd _ => [rd]
  | .bvget rd _ _ => [rd]
  | .bvset _ _ => []
  | .bvtgl _ _ => []
  | .bvlead rd _ => [rd]
  | .mref => []
  | .mrank rd => [rd]
  | .mker => []
  | .pdeg rd _ => [rd]
  | .padd rd _ _ => [rd]
  | .psub rd _ _ => [rd]
  | .pmul rd _ _ => [rd]
  | .pquorem rd rd2 _ _ => [rd, rd2]
  | .ppow rd _ _ => [rd]
  | .pgcd rd _ _ => [rd]
  | .pxgcd rd rd2 rd3 _ _ => [rd, rd2, rd3]
  | .pderiv rd _ => [rd]
  | .psqrt rd rd2 _ => [rd, rd2]
  | .bkmat _ => []
  | .pfactor _ => []
  | .fget rd rd2 _ => [rd, rd2]
  | .pirr rd _ => [rd]
  | .plowirr rd _ => [rd]
  | .prandirr rd _ => [rd]
  | .ptotient rd _ => [rd]
  | .pmsetmod _ => []
  | .pmred rd _ => [rd]
  | .pmadd rd _ _ => [rd]
  | .pmsub rd _ _ => [rd]
  | .pmmul rd _ _ => [rd]
  | .pmdiv rd _ _ => [rd]
  | .pmrecip rd _ => [rd]
  | .pmpow rd _ _ => [rd]
  | .pmnextu rd _ => [rd]
  | .igcd rd _ _ => [rd]
  | .ixgcd rd rd2 rd3 _ _ => [rd, rd2, rd3]
  | .ilcm rd _ _ => [rd]
  | .iphi rd _ => [rd]
  | .imodexp rd _ _ _ => [rd]
  | .imodrecip rd _ _ => [rd]
  | .ifact rd _ => [rd]
  | .ifactor _ => []
  | .idivnext rd _ _ => [rd]
  | .itotient rd _ => [rd]
  | .imsetmod _ => []
  | .imred rd _ => [rd]
  | .imadd rd _ _ => [rd]
  | .imsub rd _ _ => [rd]
  | .immul rd _ _ => [rd]
  | .imdiv rd _ _ => [rd]
  | .imrecip rd _ => [rd]
  | .impow rd _ _ => [rd]
  | .imnextu rd _ => [rd]
  | .imorder rd _ => [rd]
  | .pmorder rd _ => [rd]
  | .immaxord rd => [rd]
  | .pmmaxord rd => [rd]
  | .imgen rd => [rd]
  | .pmgen rd => [rd]
  | .pprim rd _ => [rd]

/-- The source registers a command names, in the order rs1, rs2, rs3 (30_encoding.md R82, R83). -/
def Instr.srcs : Instr → List Reg
  | .mnew rs1 rs2 => [rs1, rs2]
  | .msetrow rs1 rs2 => [rs1, rs2]
  | .mgetrow _ rs1 => [rs1]
  | .kgetrow _ rs1 => [rs1]
  | .bvget _ rs1 rs2 => [rs1, rs2]
  | .bvset rs1 rs2 => [rs1, rs2]
  | .bvtgl rs1 rs2 => [rs1, rs2]
  | .bvlead _ rs1 => [rs1]
  | .mref => []
  | .mrank _ => []
  | .mker => []
  | .pdeg _ rs1 => [rs1]
  | .padd _ rs1 rs2 => [rs1, rs2]
  | .psub _ rs1 rs2 => [rs1, rs2]
  | .pmul _ rs1 rs2 => [rs1, rs2]
  | .pquorem _ _ rs1 rs2 => [rs1, rs2]
  | .ppow _ rs1 rs2 => [rs1, rs2]
  | .pgcd _ rs1 rs2 => [rs1, rs2]
  | .pxgcd _ _ _ rs1 rs2 => [rs1, rs2]
  | .pderiv _ rs1 => [rs1]
  | .psqrt _ _ rs1 => [rs1]
  | .bkmat rs1 => [rs1]
  | .pfactor rs1 => [rs1]
  | .fget _ _ rs1 => [rs1]
  | .pirr _ rs1 => [rs1]
  | .plowirr _ rs1 => [rs1]
  | .prandirr _ rs1 => [rs1]
  | .ptotient _ rs1 => [rs1]
  | .pmsetmod rs1 => [rs1]
  | .pmred _ rs1 => [rs1]
  | .pmadd _ rs1 rs2 => [rs1, rs2]
  | .pmsub _ rs1 rs2 => [rs1, rs2]
  | .pmmul _ rs1 rs2 => [rs1, rs2]
  | .pmdiv _ rs1 rs2 => [rs1, rs2]
  | .pmrecip _ rs1 => [rs1]
  | .pmpow _ rs1 rs2 => [rs1, rs2]
  | .pmnextu _ rs1 => [rs1]
  | .igcd _ rs1 rs2 => [rs1, rs2]
  | .ixgcd _ _ _ rs1 rs2 => [rs1, rs2]
  | .ilcm _ rs1 rs2 => [rs1, rs2]
  | .iphi _ rs1 => [rs1]
  | .imodexp _ rs1 rs2 rs3 => [rs1, rs2, rs3]
  | .imodrecip _ rs1 rs2 => [rs1, rs2]
  | .ifact _ rs1 => [rs1]
  | .ifactor rs1 => [rs1]
  | .idivnext _ rs1 rs2 => [rs1, rs2]
  | .itotient _ rs1 => [rs1]
  | .imsetmod rs1 => [rs1]
  | .imred _ rs1 => [rs1]
  | .imadd _ rs1 rs2 => [rs1, rs2]
  | .imsub _ rs1 rs2 => [rs1, rs2]
  | .immul _ rs1 rs2 => [rs1, rs2]
  | .imdiv _ rs1 rs2 => [rs1, rs2]
  | .imrecip _ rs1 => [rs1]
  | .impow _ rs1 rs2 => [rs1, rs2]
  | .imnextu _ rs1 => [rs1]
  | .imorder _ rs1 => [rs1]
  | .pmorder _ rs1 => [rs1]
  | .immaxord _ => []
  | .pmmaxord _ => []
  | .imgen _ => []
  | .pmgen _ => []
  | .pprim _ rs1 => [rs1]

end Sys2Proof
end

