-- ==== Sys2Proof/WellFormed.lean ====
section
/-! DEFINITION. Which commands are legal as syntax: the one check on operands is R85. -/

namespace Sys2Proof

/-- The destination registers of a command are pairwise different (30_encoding.md R85). Sources are free: a
destination may equal a source, and two sources may be equal (70_reset_and_hazards.md R324). -/
abbrev Instr.Wf (i : Instr) : Prop := i.dests.Nodup

end Sys2Proof
end

