-- ==== Sys2Proof/Decode.lean ====
section
/-! DEFINITION. Decoding a word written to CMD (30_encoding.md R92), and the encoder written from the same tables
(R81 to R83). The decoder is total: a word is exactly one legal command, or is rejected by the name of the first
check that fails. -/

namespace Sys2Proof

/-- Why a word written to CMD is no legal command, in the order of the checks of R92. Each raises E_ILLEGAL. -/
inductive Illegal where
  /-- Some bit of 63:32 is set (R87). -/
  | highBits
  /-- The op field is not in the opcode map (R86). -/
  | reservedOp
  /-- A register field the command's format does not use is not 0 (R84). -/
  | unusedField
  /-- Two destination fields the command uses name the same register (R85). -/
  | equalDests
  deriving DecidableEq, Repr

/-- The fields of a command word (30_encoding.md R81). -/
structure Fields where
  op : BitVec 8
  rd : Reg
  rd2 : Reg
  rd3 : Reg
  rs1 : Reg
  rs2 : Reg
  rs3 : Reg
  deriving DecidableEq, Repr

/-- op 31:24, rd 23:20, rd2 19:16, rd3 15:12, rs1 11:8, rs2 7:4, rs3 3:0 (R81). -/
def Fields.ofWord (w : CmdWord) : Fields :=
  { op := w.extractLsb' 24 8
    rd := w.extractLsb' 20 4
    rd2 := w.extractLsb' 16 4
    rd3 := w.extractLsb' 12 4
    rs1 := w.extractLsb' 8 4
    rs2 := w.extractLsb' 4 4
    rs3 := w.extractLsb' 0 4 }

/-- The command word that has these fields (R81). -/
def Fields.toWord (f : Fields) : CmdWord :=
  f.op ++ (f.rd ++ (f.rd2 ++ (f.rd3 ++ (f.rs1 ++ (f.rs2 ++ f.rs3)))))

/-- Format D0S0: the unused fields are 0 (R84). -/
def Fields.d0s0 (f : Fields) (k : Instr) : Except Illegal Instr :=
  if f.rd = 0 ∧ f.rd2 = 0 ∧ f.rd3 = 0 ∧ f.rs1 = 0 ∧ f.rs2 = 0 ∧ f.rs3 = 0 then .ok k else .error .unusedField

/-- Format D0S1: the unused fields are 0 (R84). -/
def Fields.d0s1 (f : Fields) (k : Reg → Instr) : Except Illegal Instr :=
  if f.rd = 0 ∧ f.rd2 = 0 ∧ f.rd3 = 0 ∧ f.rs2 = 0 ∧ f.rs3 = 0 then .ok (k f.rs1) else .error .unusedField

/-- Format D0S2: the unused fields are 0 (R84). -/
def Fields.d0s2 (f : Fields) (k : Reg → Reg → Instr) : Except Illegal Instr :=
  if f.rd = 0 ∧ f.rd2 = 0 ∧ f.rd3 = 0 ∧ f.rs3 = 0 then .ok (k f.rs1 f.rs2) else .error .unusedField

/-- Format D1S0: the unused fields are 0 (R84). -/
def Fields.d1s0 (f : Fields) (k : Reg → Instr) : Except Illegal Instr :=
  if f.rd2 = 0 ∧ f.rd3 = 0 ∧ f.rs1 = 0 ∧ f.rs2 = 0 ∧ f.rs3 = 0 then .ok (k f.rd) else .error .unusedField

/-- Format D1S1: the unused fields are 0 (R84). -/
def Fields.d1s1 (f : Fields) (k : Reg → Reg → Instr) : Except Illegal Instr :=
  if f.rd2 = 0 ∧ f.rd3 = 0 ∧ f.rs2 = 0 ∧ f.rs3 = 0 then .ok (k f.rd f.rs1) else .error .unusedField

/-- Format D1S2: the unused fields are 0 (R84). -/
def Fields.d1s2 (f : Fields) (k : Reg → Reg → Reg → Instr) : Except Illegal Instr :=
  if f.rd2 = 0 ∧ f.rd3 = 0 ∧ f.rs3 = 0 then .ok (k f.rd f.rs1 f.rs2) else .error .unusedField

/-- Format D1S3: the unused fields are 0 (R84). -/
def Fields.d1s3 (f : Fields) (k : Reg → Reg → Reg → Reg → Instr) : Except Illegal Instr :=
  if f.rd2 = 0 ∧ f.rd3 = 0 then .ok (k f.rd f.rs1 f.rs2 f.rs3) else .error .unusedField

/-- Format D2S1: the unused fields are 0 (R84) and its destinations are pairwise different (R85). -/
def Fields.d2s1 (f : Fields) (k : Reg → Reg → Reg → Instr) : Except Illegal Instr :=
  if f.rd3 = 0 ∧ f.rs2 = 0 ∧ f.rs3 = 0 then if f.rd = f.rd2 then .error .equalDests else .ok (k f.rd f.rd2 f.rs1) else .error .unusedField

/-- Format D2S2: the unused fields are 0 (R84) and its destinations are pairwise different (R85). -/
def Fields.d2s2 (f : Fields) (k : Reg → Reg → Reg → Reg → Instr) : Except Illegal Instr :=
  if f.rd3 = 0 ∧ f.rs3 = 0 then if f.rd = f.rd2 then .error .equalDests else .ok (k f.rd f.rd2 f.rs1 f.rs2) else .error .unusedField

/-- Format D3S2: the unused fields are 0 (R84) and its destinations are pairwise different (R85). -/
def Fields.d3s2 (f : Fields) (k : Reg → Reg → Reg → Reg → Reg → Instr) : Except Illegal Instr :=
  if f.rs3 = 0 then if f.rd = f.rd2 ∨ f.rd = f.rd3 ∨ f.rd2 = f.rd3 then .error .equalDests else .ok (k f.rd f.rd2 f.rd3 f.rs1 f.rs2) else .error .unusedField

/-- The command that the fields of a word name, by the opcode map (R83); every other op is reserved (R86). -/
def Fields.decode (f : Fields) : Except Illegal Instr :=
  match f.op.toNat with
  | 0x10 => f.d0s2 .mnew
  | 0x11 => f.d0s2 .msetrow
  | 0x12 => f.d1s1 .mgetrow
  | 0x13 => f.d1s1 .kgetrow
  | 0x14 => f.d1s2 .bvget
  | 0x15 => f.d0s2 .bvset
  | 0x16 => f.d0s2 .bvtgl
  | 0x17 => f.d1s1 .bvlead
  | 0x18 => f.d0s0 .mref
  | 0x19 => f.d1s0 .mrank
  | 0x1A => f.d0s0 .mker
  | 0x20 => f.d1s1 .pdeg
  | 0x21 => f.d1s2 .padd
  | 0x22 => f.d1s2 .psub
  | 0x23 => f.d1s2 .pmul
  | 0x24 => f.d2s2 .pquorem
  | 0x25 => f.d1s2 .ppow
  | 0x26 => f.d1s2 .pgcd
  | 0x27 => f.d3s2 .pxgcd
  | 0x28 => f.d1s1 .pderiv
  | 0x29 => f.d2s1 .psqrt
  | 0x30 => f.d0s1 .bkmat
  | 0x31 => f.d0s1 .pfactor
  | 0x32 => f.d2s1 .fget
  | 0x33 => f.d1s1 .pirr
  | 0x34 => f.d1s1 .plowirr
  | 0x35 => f.d1s1 .prandirr
  | 0x36 => f.d1s1 .ptotient
  | 0x40 => f.d0s1 .pmsetmod
  | 0x41 => f.d1s1 .pmred
  | 0x42 => f.d1s2 .pmadd
  | 0x43 => f.d1s2 .pmsub
  | 0x44 => f.d1s2 .pmmul
  | 0x45 => f.d1s2 .pmdiv
  | 0x46 => f.d1s1 .pmrecip
  | 0x47 => f.d1s2 .pmpow
  | 0x48 => f.d1s1 .pmnextu
  | 0x50 => f.d1s2 .igcd
  | 0x51 => f.d3s2 .ixgcd
  | 0x52 => f.d1s2 .ilcm
  | 0x53 => f.d1s1 .iphi
  | 0x54 => f.d1s3 .imodexp
  | 0x55 => f.d1s2 .imodrecip
  | 0x56 => f.d1s1 .ifact
  | 0x57 => f.d0s1 .ifactor
  | 0x58 => f.d1s2 .idivnext
  | 0x59 => f.d1s1 .itotient
  | 0x60 => f.d0s1 .imsetmod
  | 0x61 => f.d1s1 .imred
  | 0x62 => f.d1s2 .imadd
  | 0x63 => f.d1s2 .imsub
  | 0x64 => f.d1s2 .immul
  | 0x65 => f.d1s2 .imdiv
  | 0x66 => f.d1s1 .imrecip
  | 0x67 => f.d1s2 .impow
  | 0x68 => f.d1s1 .imnextu
  | 0x70 => f.d1s1 .imorder
  | 0x71 => f.d1s1 .pmorder
  | 0x72 => f.d1s0 .immaxord
  | 0x73 => f.d1s0 .pmmaxord
  | 0x74 => f.d1s0 .imgen
  | 0x75 => f.d1s0 .pmgen
  | 0x76 => f.d1s1 .pprim
  | _ => .error .reservedOp

/-- Decoding of a word written to CMD (R92): bits 63:32 first (R87), then the fields of bits 31:0. -/
def decode (w : Word) : Except Illegal Instr :=
  if w.extractLsb' 32 32 = 0 then (Fields.ofWord (w.extractLsb' 0 32)).decode else .error .highBits

/-- The op field of a command (R83). -/
def Instr.opcode : Instr → BitVec 8
  | .mnew _ _ => 0x10
  | .msetrow _ _ => 0x11
  | .mgetrow _ _ => 0x12
  | .kgetrow _ _ => 0x13
  | .bvget _ _ _ => 0x14
  | .bvset _ _ => 0x15
  | .bvtgl _ _ => 0x16
  | .bvlead _ _ => 0x17
  | .mref => 0x18
  | .mrank _ => 0x19
  | .mker => 0x1A
  | .pdeg _ _ => 0x20
  | .padd _ _ _ => 0x21
  | .psub _ _ _ => 0x22
  | .pmul _ _ _ => 0x23
  | .pquorem _ _ _ _ => 0x24
  | .ppow _ _ _ => 0x25
  | .pgcd _ _ _ => 0x26
  | .pxgcd _ _ _ _ _ => 0x27
  | .pderiv _ _ => 0x28
  | .psqrt _ _ _ => 0x29
  | .bkmat _ => 0x30
  | .pfactor _ => 0x31
  | .fget _ _ _ => 0x32
  | .pirr _ _ => 0x33
  | .plowirr _ _ => 0x34
  | .prandirr _ _ => 0x35
  | .ptotient _ _ => 0x36
  | .pmsetmod _ => 0x40
  | .pmred _ _ => 0x41
  | .pmadd _ _ _ => 0x42
  | .pmsub _ _ _ => 0x43
  | .pmmul _ _ _ => 0x44
  | .pmdiv _ _ _ => 0x45
  | .pmrecip _ _ => 0x46
  | .pmpow _ _ _ => 0x47
  | .pmnextu _ _ => 0x48
  | .igcd _ _ _ => 0x50
  | .ixgcd _ _ _ _ _ => 0x51
  | .ilcm _ _ _ => 0x52
  | .iphi _ _ => 0x53
  | .imodexp _ _ _ _ => 0x54
  | .imodrecip _ _ _ => 0x55
  | .ifact _ _ => 0x56
  | .ifactor _ => 0x57
  | .idivnext _ _ _ => 0x58
  | .itotient _ _ => 0x59
  | .imsetmod _ => 0x60
  | .imred _ _ => 0x61
  | .imadd _ _ _ => 0x62
  | .imsub _ _ _ => 0x63
  | .immul _ _ _ => 0x64
  | .imdiv _ _ _ => 0x65
  | .imrecip _ _ => 0x66
  | .impow _ _ _ => 0x67
  | .imnextu _ _ => 0x68
  | .imorder _ _ => 0x70
  | .pmorder _ _ => 0x71
  | .immaxord _ => 0x72
  | .pmmaxord _ => 0x73
  | .imgen _ => 0x74
  | .pmgen _ => 0x75
  | .pprim _ _ => 0x76

/-- The fields of a command: its op, its destinations and its sources, the unused fields 0 (R82 to R84). -/
def Instr.fields (i : Instr) : Fields :=
  { op := i.opcode
    rd := i.dests.getD 0 0
    rd2 := i.dests.getD 1 0
    rd3 := i.dests.getD 2 0
    rs1 := i.srcs.getD 0 0
    rs2 := i.srcs.getD 1 0
    rs3 := i.srcs.getD 2 0 }

/-- The word that encodes a command: bits 31:0 from its fields (R81), bits 63:32 zero (R87). -/
def encode (i : Instr) : Word := i.fields.toWord.setWidth 64

/-- The command read from an instruction word of spec/opcode_table.json given as a number (bit 0 the least
significant); none where the decoder rejects it. A command is one word of 32 bits (R80), so bits at `nbits` and
above are 0. -/
def decodeTableWord (nbits w : Nat) : Option Instr :=
  (decode (BitVec.ofNat 64 (w % 2 ^ nbits))).toOption

end Sys2Proof
end

