-- ==== Sys2Proof/Config.lean ====
section
/-! DEFINITION. The constants of GOFFL-CORE (00_scope.md R11, R12) and the parameters the spec leaves open. -/

namespace Sys2Proof.Config

/-- Operand registers (R12). -/
def nreg : Nat := 16

/-- Rows of MAT (R12). -/
def maxRows : Nat := 64

/-- Columns of MAT, the bit-vector width limit of the source (R11, R12). -/
def maxCols : Nat := 64

/-- Rows of KER (R12). -/
def kerCap : Nat := 64

/-- Entries of FAC (R12). -/
def facCap : Nat := 16

/-- The bus address of host-window word 0, chosen by the platform (20_memory.md R62, decision D8). No rule depends
on its value. -/
opaque hostBase : Nat

/-- The n-th value the random source delivers once the words of `State.rnd` are used up: a free value under no law
(10_state.md R46, decision D25). -/
opaque rnd (n : Nat) : Word

end Sys2Proof.Config
end

