-- ==== Sys2Proof/Machine/State.lean ====
section
/-! DEFINITION. The state of GOFFL-CORE (10_state.md R20), its reset value (R47), and the reasons a step can stop. -/

namespace Sys2Proof.Machine

/-- One of the cell arrays of the three banks (20_memory.md R60): FAC is the two arrays FACB and FACM. -/
inductive BankName where
  | mat
  | ker
  | facb
  | facm
  deriving DecidableEq, Repr

/-- The contents of a cell array: the cells that do not hold 0, as (index, word) pairs with rising indices (log
entries 1 and 2; `bankWf` of Ops.lean is the canonical form). An index that is not listed holds 0. -/
abbrev Bank := List (Nat × Word)

/-- A host transaction (20_memory.md R62). No narrower, wider or misaligned access exists (R65). -/
inductive HostOp where
  /-- HostRead(w). -/
  | read (w : WinIndex)
  /-- HostWrite(w, v). -/
  | write (w : WinIndex) (v : Word)
  deriving DecidableEq, Repr

/-- A PRANDIRR that has not completed: where its result goes, and the degree it searches (42_f2polyfactor.md R177,
70_reset_and_hazards.md R325). -/
structure Search where
  rd : Reg
  degree : Nat
  deriving DecidableEq, Repr

/-- The state of the block. The fields down to `facm` are the architectural state (10_state.md R20); those after it
are the model's own: the block's inputs, its one output, and a PRANDIRR in progress (log entries 3 to 7). -/
structure State where
  /-- The operand registers x[0] to x[15] (R21). -/
  x : Vector Word 16
  /-- CMD, the last word written to it (R27). -/
  cmd : Word
  /-- STATUS (R28); its fields are in Flags.lean. -/
  status : Word
  /-- ESTICKY, one bit per code raised (R29). -/
  esticky : Word
  /-- ECMD, the word of the most recent failing command (R30). -/
  ecmd : Word
  /-- PMOD, the polynomial modulus (R31). -/
  pmod : Word
  /-- IMOD, the integer modulus (R32). -/
  imod : Word
  /-- MDIM, the dimensions of MAT (R33). -/
  mdim : Word
  /-- KDIM, the dimensions of KER (R35). -/
  kdim : Word
  /-- FSTAT, the count and kind of the factor list (R34). -/
  fstat : Word
  /-- FTRIV, the trivial factor (R34). -/
  ftriv : Word
  /-- The bank MAT (R33). -/
  mat : Bank
  /-- The bank KER (R35). -/
  ker : Bank
  /-- The bases of the bank FAC (R34). -/
  facb : Bank
  /-- The multiplicities of the bank FAC (R34). -/
  facm : Bank
  /-- The host transactions not yet served, oldest first (20_memory.md R70). -/
  hostq : List HostOp
  /-- The word the last HostRead returned (20_memory.md R62). -/
  reply : Word
  /-- The reset input is asserted (70_reset_and_hazards.md R320). -/
  resetLine : Bool
  /-- The words the random source delivers next, oldest first (R46); when none is left, `Config.rnd drawn`. -/
  rnd : List Word
  /-- How many values `Config.rnd` has delivered. -/
  drawn : Nat
  /-- The PRANDIRR in progress, if any. -/
  search : Option Search
  deriving DecidableEq, Repr

/-- Why a step stops with a fault. -/
inductive Fault where
  /-- A command reaches a bank cell that does not exist: MAT and KER have cells 0 to 63, FAC has entries 0 to 15
  (20_memory.md R60). Raised by the bank operations of Ops.lean. Safe: the machine stops where the spec gives no
  cell, and no state the machine can be in gets there, since every bound is at most the capacity (10_state.md R33
  to R35; log entry 8). -/
  | noSuchCell (bank : BankName) (index : Nat)
  deriving DecidableEq, Repr

/-- Why an instruction is refused. -/
inductive Refusal where
  /-- The instruction has no meaning in the model yet: raised by an arm of `exec` only. Safe. No arm does. -/
  | notModelled (mnemonic : String)
  deriving DecidableEq, Repr

/-- The state after reset (10_state.md R47): every register 0, no context valid, the block idle. The bank cells are
unspecified there; the model holds 0 (log entry 1). The model's own fields: no transaction pending, no draw
supplied, the reset input released. -/
def State.reset : State where
  x := Vector.replicate 16 0
  cmd := 0
  status := 0
  esticky := 0
  ecmd := 0
  pmod := 0
  imod := 0
  mdim := 0
  kdim := 0
  fstat := 0
  ftriv := 0
  mat := []
  ker := []
  facb := []
  facm := []
  hostq := []
  reply := 0
  resetLine := false
  rnd := []
  drawn := 0
  search := none

end Sys2Proof.Machine
end

