-- ==== Sys2Proof/Machine/Flags.lean ====
section
/-! DEFINITION. The completion codes (60_exceptions.md R281) and the fields of STATUS, MDIM, KDIM and FSTAT
(10_state.md R28, R33 to R35). The block has no other flags (R25). -/

namespace Sys2Proof.Machine

/-- The recoverable errors, codes 1 to 11 (R281). -/
inductive ErrCode where
  | illegal
  | divzero
  | notinv
  | negexp
  | zerozero
  | index
  | construct
  | noctx
  | overflow
  | undef
  | notfound
  deriving DecidableEq, Repr

/-- The fatal conditions, codes 32 to 35 (R281, R289). -/
inductive FatalCode where
  | kernel
  | gzero
  | idemp
  | nosplit
  deriving DecidableEq, Repr

/-- The number of a recoverable error (R281). -/
def ErrCode.num : ErrCode → Nat
  | .illegal => 1
  | .divzero => 2
  | .notinv => 3
  | .negexp => 4
  | .zerozero => 5
  | .index => 6
  | .construct => 7
  | .noctx => 8
  | .overflow => 9
  | .undef => 10
  | .notfound => 11

/-- The number of a fatal condition (R281). -/
def FatalCode.num : FatalCode → Nat
  | .kernel => 32
  | .gzero => 33
  | .idemp => 34
  | .nosplit => 35

/-- The word with its bits `lo + n - 1` down to `lo` replaced by `v`. -/
def setField {n : Nat} (w : Word) (lo : Nat) (v : BitVec n) : Word :=
  (w &&& ~~~((BitVec.allOnes n).setWidth 64 <<< lo)) ||| (v.setWidth 64 <<< lo)

/-- STATUS.code, bits 7:0: the completion code of the most recent command (R28). -/
def State.code (s : State) : Nat := (s.status.extractLsb' 0 8).toNat

/-- STATUS.fatal, bit 8 (R28). -/
def State.fatal (s : State) : Bool := s.status.getLsbD 8

/-- STATUS.pmodv, bit 9: PMOD holds a validly constructed modulus (R28, R31). -/
def State.pmodv (s : State) : Bool := s.status.getLsbD 9

/-- STATUS.imodv, bit 10: IMOD holds a validly constructed modulus (R28, R32). -/
def State.imodv (s : State) : Bool := s.status.getLsbD 10

/-- STATUS.matv, bit 11: MAT holds a validly constructed matrix (R28, R33). -/
def State.matv (s : State) : Bool := s.status.getLsbD 11

/-- STATUS.kerv, bit 12: KER holds the result of a completed MKER (R28, R35). -/
def State.kerv (s : State) : Bool := s.status.getLsbD 12

/-- STATUS.code <- c. -/
def State.setCode (s : State) (c : Nat) : State :=
  { s with status := setField s.status 0 (BitVec.ofNat 8 c) }

/-- STATUS.fatal <- b. -/
def State.setFatal (s : State) (b : Bool) : State :=
  { s with status := setField s.status 8 (BitVec.ofBool b) }

/-- STATUS.pmodv <- b. -/
def State.setPmodv (s : State) (b : Bool) : State :=
  { s with status := setField s.status 9 (BitVec.ofBool b) }

/-- STATUS.imodv <- b. -/
def State.setImodv (s : State) (b : Bool) : State :=
  { s with status := setField s.status 10 (BitVec.ofBool b) }

/-- STATUS.matv <- b. -/
def State.setMatv (s : State) (b : Bool) : State :=
  { s with status := setField s.status 11 (BitVec.ofBool b) }

/-- STATUS.kerv <- b. -/
def State.setKerv (s : State) (b : Bool) : State :=
  { s with status := setField s.status 12 (BitVec.ofBool b) }

/-- ESTICKY[c] <- 1 (10_state.md R29). -/
def State.stick (s : State) (c : Nat) : State :=
  { s with esticky := s.esticky ||| (1 <<< c) }

/-- MDIM.NROWS, bits 6:0 (R33). -/
def State.nrows (s : State) : Nat := (s.mdim.extractLsb' 0 7).toNat

/-- MDIM.NCOLS, bits 14:8 (R33). -/
def State.ncols (s : State) : Nat := (s.mdim.extractLsb' 8 7).toNat

/-- KDIM.KROWS, bits 6:0 (R35). -/
def State.krows (s : State) : Nat := (s.kdim.extractLsb' 0 7).toNat

/-- KDIM.KCOLS, bits 14:8 (R35). -/
def State.kcols (s : State) : Nat := (s.kdim.extractLsb' 8 7).toNat

/-- FSTAT.FCOUNT, bits 4:0 (R34). -/
def State.fcount (s : State) : Nat := (s.fstat.extractLsb' 0 5).toNat

/-- FSTAT.FKIND, bits 9:8: 0 none, 1 polynomial, 2 integer (R34). -/
def State.fkind (s : State) : Nat := (s.fstat.extractLsb' 8 2).toNat

/-- FSTAT.FTRIVV, bit 16: a trivial factor is recorded (R34). -/
def State.ftrivv (s : State) : Bool := s.fstat.getLsbD 16

/-- The word of MDIM or KDIM for a number of rows and of columns; the other bits are 0 (R33, R35). -/
def dimWord (rows cols : Nat) : Word := BitVec.ofNat 64 (rows + cols <<< 8)

/-- The word of FSTAT for a count, a kind and whether a trivial factor is recorded; the other bits are 0 (R34). -/
def fstatWord (count kind : Nat) (trivv : Bool) : Word :=
  BitVec.ofNat 64 (count + kind <<< 8 + trivv.toNat <<< 16)

end Sys2Proof.Machine
end

