-- ==== Sys2Proof/Machine/Loops.lean ====
section
/-! DEFINITION. The loops several helpers share. Each is structural over a number of rounds; the caller gives as many
rounds as the loop of the spec can make (log entry 12). -/

namespace Sys2Proof.Machine

/-- Square-and-multiply over a product `mul` (41_f2poly.md R138, 43_f2polymod.md R191, 44_intarith.md R214): `r` is
the running result, `b` the running square, `k` the exponent still to be used. `k` rounds suffice. -/
def powLoop (mul : Nat → Nat → Nat) : Nat → Nat → Nat → Nat → Nat
  | 0, r, _, _ => r
  | n + 1, r, b, k =>
    if k = 0 then r
    else
      powLoop mul n (if k % 2 = 1 then mul r b else r) (if k / 2 > 0 then mul b b else b) (k / 2)

/-- The least of the `n` numbers `u`, `u + 1`, ... that passes a test. -/
def findUp (test : Nat → Bool) : Nat → Nat → Option Nat
  | 0, _ => none
  | n + 1, u => if test u then some u else findUp test n (u + 1)

/-- The number whose bit `i` is the `i`-th entry of a list. -/
def bitsToNat : List Bool → Nat
  | [] => 0
  | b :: bs => b.toNat + 2 * bitsToNat bs

end Sys2Proof.Machine
end

