-- ==== Sys2Proof/Machine/Matrix.lean ====
section
/-! DEFINITION. Gaussian elimination, rank and kernel basis over GF(2) (40_bitvector_bitmatrix.md section 1). A row is
a number whose bit c is column c, already masked to its width; a matrix is the list of its rows. -/

namespace Sys2Proof.Machine

/-- lead(v): the index of the lowest set bit, none for v = 0, which the spec writes -1 (R108). -/
def lead (v : Nat) : Option Nat := (List.range (v.log2 + 1)).find? fun j => v.testBit j

/-- One column of phase 1 of rref (R110). `done` are the rows above `top`, `rest` those from `top` on. The first of
`rest` with a 1 in column c is swapped with its head and becomes the pivot, and is added into every other row of
`rest` with a 1 there; where there is none, nothing changes. -/
def elimColumn (rows : List Nat × List Nat) (c : Nat) : List Nat × List Nat :=
  match rows.2.findIdx? fun r => r.testBit c with
  | none => rows
  | some p =>
    let pivot := rows.2.getD p 0
    let below := (rows.2.set p (rows.2.headD 0)).tail
    (rows.1 ++ [pivot], below.map fun r => if r.testBit c then r ^^^ pivot else r)

/-- Phase 1 of rref: column 0 first (R110). -/
def forwardElim (nc : Nat) (rows : List Nat) : List Nat :=
  let st := (List.range nc).foldl elimColumn ([], rows)
  st.1 ++ st.2

/-- Row k added into row r where row r has a 1 at the leader of row k (R110, phase 2; 90_conflicts.md C3). -/
def clearAt (r k : Nat) : Nat :=
  match lead k with
  | none => r
  | some l => if r.testBit l then r ^^^ k else r

/-- Phase 2 of rref: into each row, from the first, the later rows in order (R110). -/
def backSubst : List Nat → List Nat
  | [] => []
  | r :: below => below.foldl clearAt r :: backSubst below

/-- rref(rows, nr, nc): the reduced row echelon form (R110). -/
def rref (nc : Nat) (rows : List Nat) : List Nat := backSubst (forwardElim nc rows)

/-- The non-zero rows before the first all-zero row (R112, R113). -/
def pivotRows (rows : List Nat) : List Nat := rows.takeWhile (· ≠ 0)

/-- rankof(rows, nr, nc) (R113). -/
def rankof (nc : Nat) (rows : List Nat) : Nat := (pivotRows (rref nc rows)).length

/-- The kernel vector of a free column f, from the non-zero rows of the echelon form: a 1 at f, and at each leader
the value of that leader's row in column f (R112). -/
def kernelVector (pivots : List Nat) (f : Nat) : Nat :=
  pivots.foldl
    (fun v e => match lead e with
      | none => v
      | some l => if e.testBit f then v ||| (1 <<< l) else v)
    (1 <<< f)

/-- kernel(rows, nr, nc): one vector for each free column, ascending; F_KERNEL where the number of free columns is
not nc - rank (R112). -/
def kernelBasis (nc : Nat) (rows : List Nat) : Except FatalCode (List Nat) :=
  let pivots := pivotRows (rref nc rows)
  let free := (List.range nc).filter fun c => !(pivots.map lead).contains (some c)
  if free.length + pivots.length ≠ nc then .error .kernel else .ok (free.map (kernelVector pivots))

end Sys2Proof.Machine
end

