-- ==== Sys2Proof/Machine/Operands.lean ====
section
/-! DEFINITION. How a command reads and writes operand registers (00_scope.md R14, R16). There are no immediates and
no addressing modes (30_encoding.md R82, 20_memory.md R77). -/

namespace Sys2Proof.Machine

/-- x[r] (R14). No register is hardwired (10_state.md R22). -/
def State.get (s : State) (r : Reg) : Word := s.x[r.toNat]'r.isLt

/-- x[r] <- v (R14). -/
def State.set (s : State) (r : Reg) (v : Word) : State :=
  { s with x := s.x.set r.toNat v r.isLt }

/-- u64(x[r]): the register as an unsigned integer or a polynomial (R14, R16). -/
def State.u64 (s : State) (r : Reg) : Nat := (s.get r).toNat

/-- s64(x[r]): the register as a two's-complement integer (R14, R16). -/
def State.s64 (s : State) (r : Reg) : Int := (s.get r).toInt

/-- x[r] <- the low 64 bits of a natural number (R14). -/
def State.setNat (s : State) (r : Reg) (n : Nat) : State := s.set r (BitVec.ofNat 64 n)

/-- x[r] <- the two's-complement word of an integer (R14, R16). -/
def State.setInt (s : State) (r : Reg) (z : Int) : State := s.set r (BitVec.ofInt 64 z)

/-- x[r] <- a truth value: 1 for true, 0 for false (R16). -/
def State.setBool (s : State) (r : Reg) (b : Bool) : State := s.setNat r b.toNat

end Sys2Proof.Machine
end

