-- ==== Sys2Proof/Machine/Ops.lean ====
section
/-! DEFINITION. The shared operations: bank cells (20_memory.md R61), and how a command ends (60_exceptions.md R283,
R284, R290). -/

namespace Sys2Proof.Machine

/-- What one command or one step answers. -/
abbrev Out := Host.Outcome State Fault Refusal

/-! ## Bank cells -/

/-- The number of cells of an array (20_memory.md R60). -/
def BankName.cap : BankName → Nat
  | .mat => Config.maxRows
  | .ker => Config.kerCap
  | .facb => Config.facCap
  | .facm => Config.facCap

/-- The word an index of an array holds: the listed one, else 0 (log entry 1). -/
def bankRead : Bank → Nat → Word
  | [], _ => 0
  | (j, v) :: t, i => if i = j then v else bankRead t i

/-- Store a word at an index, keeping the canonical form: storing 0 removes the entry. -/
def bankWrite : Bank → Nat → Word → Bank
  | [], i, v => if v = 0 then [] else [(i, v)]
  | (j, u) :: t, i, v =>
    if i < j then (if v = 0 then (j, u) :: t else (i, v) :: (j, u) :: t)
    else if i = j then (if v = 0 then t else (i, v) :: t)
    else (j, u) :: bankWrite t i v

/-- The canonical form of an array of `cap` cells: the indices strictly rise and are below `cap`, and no listed
word is 0 (log entry 2). -/
abbrev bankWf (cap : Nat) (b : Bank) : Prop :=
  (b.map Prod.fst).Pairwise (· < ·) ∧ ∀ e ∈ b, e.1 < cap ∧ e.2 ≠ 0

/-- The cells of an array. -/
def State.bank (s : State) : BankName → Bank
  | .mat => s.mat
  | .ker => s.ker
  | .facb => s.facb
  | .facm => s.facm

/-- The state with the cells of one array replaced. -/
def State.setBank (s : State) (b : BankName) (m : Bank) : State :=
  match b with
  | .mat => { s with mat := m }
  | .ker => { s with ker := m }
  | .facb => { s with facb := m }
  | .facm => { s with facm := m }

/-- The canonical form of all four arrays. -/
abbrev Memory.wf (s : State) : Prop :=
  bankWf BankName.mat.cap s.mat ∧ bankWf BankName.ker.cap s.ker ∧
    bankWf BankName.facb.cap s.facb ∧ bankWf BankName.facm.cap s.facm

/-- The word of one cell. -/
def State.cell (s : State) (b : BankName) (i : Nat) : Word := bankRead (s.bank b) i

/-- v AND mask(n): the low n bits (R14). -/
def maskBits (n v : Nat) : Nat := v % 2 ^ n

/-- MemRead(cell, n): the low n bits of a cell (R14, R61); a cell that does not exist faults (R60). -/
def State.memRead (s : State) (b : BankName) (i n : Nat) : Except Fault Nat :=
  if i < b.cap then .ok (maskBits n (s.cell b i).toNat) else .error (.noSuchCell b i)

/-- MemWrite(cell, n, v): store v AND mask(n) in a cell (R14, R61); a cell that does not exist faults (R60). -/
def State.memWrite (s : State) (b : BankName) (i n v : Nat) : Except Fault State :=
  if i < b.cap then .ok (s.setBank b (bankWrite (s.bank b) i (BitVec.ofNat 64 (maskBits n v))))
  else .error (.noSuchCell b i)

/-- The cells `i`, `i + 1`, ... as many as `k`, each read through MemRead(·, n). -/
def State.memReadAll (s : State) (b : BankName) (n : Nat) : Nat → Nat → Except Fault (List Nat)
  | 0, _ => .ok []
  | k + 1, i =>
    match s.memRead b i n with
    | .error e => .error e
    | .ok v =>
      match s.memReadAll b n k (i + 1) with
      | .error e => .error e
      | .ok vs => .ok (v :: vs)

/-- Store the values one after the other in the cells `i`, `i + 1`, ..., each through MemWrite(·, n, ·). -/
def State.memWriteAll (b : BankName) (n : Nat) : List Nat → Nat → State → Except Fault State
  | [], _, s => .ok s
  | v :: vs, i, s =>
    match s.memWrite b i n v with
    | .error e => .error e
    | .ok s' => State.memWriteAll b n vs (i + 1) s'

/-! ## How a command ends -/

/-- Why a command does not write its results. -/
inductive Stop where
  /-- It raises a recoverable error. -/
  | err (e : ErrCode)
  /-- It ends in a fatal condition. -/
  | fatal (f : FatalCode)
  /-- It reaches a cell that does not exist. -/
  | fault (f : Fault)
  deriving DecidableEq, Repr

/-- What a command computes: the state with its results written, or why there are none. -/
abbrev Result := Except Stop State

/-- `raise E(cmd)`, taking a recoverable error (60_exceptions.md R283): the code, the ESTICKY bit and ECMD are
written, and nothing else. The command word is CMD, where step stored it (10_state.md R27, R30). -/
def raise (e : ErrCode) (s : State) : State :=
  { (s.setCode e.num).stick e.num with ecmd := s.cmd }

/-- `fatal F(cmd)`, taking a fatal condition (60_exceptions.md R290). Nothing returns from it but reset; from a
recoverable error nothing returns either, the next command is simply accepted (R295). -/
def fatal (f : FatalCode) (s : State) : State :=
  { ((s.setCode f.num).setFatal true).stick f.num with ecmd := s.cmd }

/-- The end of a command begun in state `s` (30_encoding.md R94 (e), (f)): its results with code 0 (R284), or the
error or fatal condition taken in `s`, none of its results written (R283, R290). -/
def finish (s : State) : Result → Out
  | .ok s' => .next (s'.setCode 0)
  | .error (.err e) => .next (raise e s)
  | .error (.fatal f) => .next (fatal f s)
  | .error (.fault f) => .fault f

/-- End with a recoverable error, nothing written (60_exceptions.md R283). -/
def fails (e : ErrCode) : Result := .error (.err e)

/-- Go on with what a bank access gives; a cell that does not exist faults. -/
def onCell {α : Type} (a : Except Fault α) (k : α → Result) : Result :=
  match a with
  | .ok v => k v
  | .error f => .error (.fault f)

/-- Go on with the value of a helper that may end in a fatal condition (60_exceptions.md R289). -/
def onFatal {α : Type} (a : Except FatalCode α) (k : α → Result) : Result :=
  match a with
  | .ok v => k v
  | .error f => .error (.fatal f)

/-- A command that needs a context raises E_NOCTX where it is not valid (30_encoding.md R94 (b)). -/
def needCtx (valid : Bool) (k : Result) : Result :=
  if valid then k else fails .noctx

/-- An index operand: E_INDEX outside 0 to bound - 1 (20_memory.md R61, R77). -/
def needIndex (i : Int) (bound : Nat) (k : Nat → Result) : Result :=
  if i < 0 ∨ (bound : Int) ≤ i then fails .index else k i.toNat

/-- An integer result: E_OVERFLOW unless it is at most 2^63 - 1 (44_intarith.md R220). -/
def needInt63 (n : Nat) (k : Result) : Result :=
  if 2 ^ 63 ≤ n then fails .overflow else k

/-! ## The random source -/

/-- draw() (10_state.md R46): the next supplied word, else a free value. -/
def State.draw (s : State) : Word × State :=
  match s.rnd with
  | w :: ws => (w, { s with rnd := ws })
  | [] => (Config.rnd s.drawn, { s with drawn := s.drawn + 1 })

end Sys2Proof.Machine
end

