-- ==== Sys2Proof/Machine/BitMatrix.lean ====
section
/-! DEFINITION. The BitVector and BitMatrix commands (40_bitvector_bitmatrix.md sections 2 to 4). -/

namespace Sys2Proof.Machine

/-- The rows of the matrix, each masked to NCOLS (40_bitvector_bitmatrix.md R114 to R116). -/
def State.matRows (s : State) : Except Fault (List Nat) := s.memReadAll .mat s.ncols s.nrows 0

/-- MNEW (R101). A failed construction invalidates the context, and leaves MDIM. -/
def execMnew (rs1 rs2 : Reg) (s : State) : Out :=
  let nr := s.s64 rs1
  let nc := s.s64 rs2
  if nr ≤ 0 ∨ nc ≤ 0 ∨ (Config.maxRows : Int) < nr ∨ (Config.maxCols : Int) < nc then
    finish (s.setMatv false) (fails .construct)
  else
    finish s <|
      onCell (State.memWriteAll .mat 64 (List.replicate nr.toNat 0) 0
        { s with mdim := dimWord nr.toNat nc.toNat }) fun s' => .ok (s'.setMatv true)

/-- MSETROW (R102). -/
def execMsetrow (rs1 rs2 : Reg) (s : State) : Out :=
  finish s <| needCtx s.matv <| needIndex (s.s64 rs1) s.nrows fun i =>
    onCell (s.memWrite .mat i s.ncols (s.u64 rs2)) .ok

/-- MGETROW (R103). -/
def execMgetrow (rd rs1 : Reg) (s : State) : Out :=
  finish s <| needCtx s.matv <| needIndex (s.s64 rs1) s.nrows fun i =>
    onCell (s.memRead .mat i s.ncols) fun v => .ok (s.setNat rd v)

/-- KGETROW (R104). -/
def execKgetrow (rd rs1 : Reg) (s : State) : Out :=
  finish s <| needCtx s.kerv <| needIndex (s.s64 rs1) s.krows fun i =>
    onCell (s.memRead .ker i s.kcols) fun v => .ok (s.setNat rd v)

/-- BVGET (R105): the row index is checked before the bit index. -/
def execBvget (rd rs1 rs2 : Reg) (s : State) : Out :=
  finish s <| needCtx s.matv <| needIndex (s.s64 rs1) s.nrows fun i =>
    needIndex (s.s64 rs2) s.ncols fun j =>
      onCell (s.memRead .mat i s.ncols) fun v => .ok (s.setBool rd (v.testBit j))

/-- BVSET (R106). -/
def execBvset (rs1 rs2 : Reg) (s : State) : Out :=
  finish s <| needCtx s.matv <| needIndex (s.s64 rs1) s.nrows fun i =>
    needIndex (s.s64 rs2) s.ncols fun j =>
      onCell (s.memRead .mat i s.ncols) fun v =>
        onCell (s.memWrite .mat i s.ncols (v ||| (1 <<< j))) .ok

/-- BVTGL (R107). -/
def execBvtgl (rs1 rs2 : Reg) (s : State) : Out :=
  finish s <| needCtx s.matv <| needIndex (s.s64 rs1) s.nrows fun i =>
    needIndex (s.s64 rs2) s.ncols fun j =>
      onCell (s.memRead .mat i s.ncols) fun v =>
        onCell (s.memWrite .mat i s.ncols (v ^^^ (1 <<< j))) .ok

/-- lead(v) as a register value: -1 for an all-zero row (R108). -/
def leadInt (v : Nat) : Int :=
  match lead v with
  | some l => l
  | none => -1

/-- BVLEAD (R109). -/
def execBvlead (rd rs1 : Reg) (s : State) : Out :=
  finish s <| needCtx s.matv <| needIndex (s.s64 rs1) s.nrows fun i =>
    onCell (s.memRead .mat i s.ncols) fun v => .ok (s.setInt rd (leadInt v))

/-- MREF (R114): in place. -/
def execMref (s : State) : Out :=
  finish s <| needCtx s.matv <| onCell s.matRows fun rows =>
    onCell (State.memWriteAll .mat s.ncols (rref s.ncols rows) 0 s) .ok

/-- MRANK (R115): MAT is not written. -/
def execMrank (rd : Reg) (s : State) : Out :=
  finish s <| needCtx s.matv <| onCell s.matRows fun rows => .ok (s.setNat rd (rankof s.ncols rows))

/-- MKER (R116): MAT is not written. -/
def execMker (s : State) : Out :=
  finish s <| needCtx s.matv <| onCell s.matRows fun rows =>
    onFatal (kernelBasis s.ncols rows) fun basis =>
      onCell (State.memWriteAll .ker s.ncols basis 0 { s with kdim := dimWord basis.length s.ncols }) fun s' =>
        .ok (s'.setKerv true)

end Sys2Proof.Machine
end

