-- ==== Sys2Proof/Machine/Poly.lean ====
section
/-! DEFINITION. The mathematics of F2[x] on bit-packed numbers: bit j is the coefficient of x^j (41_f2poly.md section
1, 43_f2polymod.md section 1). Values are unbounded (00_scope.md R15); the commands check widths. -/

namespace Sys2Proof.Machine

/-- deg(a): the index of the highest set bit, and 0 for a = 0 (R130). -/
def deg (a : Nat) : Nat := Nat.log2 a

/-- The sum of `a << j` over the set bits j of `b` below `n` (R132). -/
def clmulUpTo (a b : Nat) : Nat → Nat
  | 0 => 0
  | n + 1 => clmulUpTo a b n ^^^ (if b.testBit n then a <<< n else 0)

/-- clmul(a, b): the product in F2[x] by shift and XOR over the bits of the right operand up to its degree (R132). -/
def clmul (a b : Nat) : Nat := clmulUpTo a b (deg b + 1)

/-- The division loop of R133: the steps s = n - 1 down to 0, `db` the degree of the divisor. -/
def pdivLoop (b db : Nat) : Nat → Nat → Nat → Nat × Nat
  | 0, q, r => (q, r)
  | s + 1, q, r =>
    if r.testBit (db + s) then pdivLoop b db s (q ||| (1 <<< s)) (r ^^^ (b <<< s))
    else pdivLoop b db s q r

/-- pquorem(a, b), for b not 0: quotient and remainder in F2[x] by long division (R133). -/
def pquorem (a b : Nat) : Nat × Nat :=
  if deg a < deg b then (0, a) else pdivLoop b (deg b) (deg a - deg b + 1) 0 a

/-- pmodp(a, b): the remainder (R133). -/
def pmodp (a b : Nat) : Nat := (pquorem a b).2

/-- Euclid's loop of R134. -/
def pgcdLoop : Nat → Nat → Nat → Nat
  | 0, a, _ => a
  | n + 1, a, b => if b = 0 then a else pgcdLoop n b (pmodp a b)

/-- pgcd(a, b) (R134). The degree of the second number falls in every round, so deg(b) + 2 rounds suffice. -/
def pgcd (a b : Nat) : Nat := pgcdLoop (deg b + 2) a b

/-- The three-row loop of R135, rows (r0, s0, t0) and (r1, s1, t1). -/
def pxgcdLoop : Nat → Nat → Nat → Nat → Nat → Nat → Nat → Nat × Nat × Nat
  | 0, r0, s0, t0, _, _, _ => (r0, s0, t0)
  | n + 1, r0, s0, t0, r1, s1, t1 =>
    if r1 = 0 then (r0, s0, t0)
    else
      let qr := pquorem r0 r1
      pxgcdLoop n r1 s1 t1 qr.2 (s0 ^^^ clmul qr.1 s1) (t0 ^^^ clmul qr.1 t1)

/-- pxgcd(a, b): (g, s, t) with g = s·a XOR t·b (R135). -/
def pxgcd (a b : Nat) : Nat × Nat × Nat := pxgcdLoop (deg b + 2) a 1 0 b 0 1

/-- The odd bit positions of a word. -/
def oddMask : Nat := 0xAAAAAAAAAAAAAAAA

/-- pderiv(a), the formal derivative: the odd coefficients, each one place down (R136, 90_conflicts.md C2). -/
def pderiv (a : Nat) : Nat := (a &&& oddMask) >>> 1

/-- The bits 0, 2, ..., 2(n - 1) of `a` as the bits 0 to n - 1. -/
def evenBits (a : Nat) : Nat → Nat
  | 0 => 0
  | n + 1 => evenBits a n ||| ((a.testBit (2 * n)).toNat <<< n)

/-- psqrt(a): the square root of a polynomial all of whose odd coefficients are 0 (R137). -/
def psqrt (a : Nat) : Option Nat := if a &&& oddMask ≠ 0 then none else some (evenBits a 32)

/-- ppow(a, e), not for a = 0 with e = 0 (R138). -/
def ppow (a e : Nat) : Nat := powLoop clmul e 1 a e

/-- pmulmod(a, b, m): the exact product, then the remainder (43_f2polymod.md R191). -/
def pmulmod (m a b : Nat) : Nat := pmodp (clmul a b) m

/-- ppowmod(a, e, m) for a reduced `a` (43_f2polymod.md R191). -/
def ppowmod (m a e : Nat) : Nat := powLoop (pmulmod m) e (pmodp 1 m) a e

/-- precip(a, m) for a reduced `a`: the inverse of a unit, none otherwise (43_f2polymod.md R192). -/
def precip (m a : Nat) : Option Nat :=
  let g := pxgcd a m
  if g.1 ≠ 1 then none else some (pmodp g.2.1 m)

/-- The unit test of the ring F2[x]/(m) (46_order.md R260). -/
def punit (m a : Nat) : Bool := pgcd a m = 1

end Sys2Proof.Machine
end

