-- ==== Sys2Proof/Machine/F2Poly.lean ====
section
/-! DEFINITION. The F2Poly commands (41_f2poly.md section 2). Operand registers only. -/

namespace Sys2Proof.Machine

/-- PDEG (R140). -/
def execPdeg (rd rs1 : Reg) (s : State) : Out :=
  finish s <| .ok (s.setNat rd (deg (s.u64 rs1)))

/-- PADD (R141). -/
def execPadd (rd rs1 rs2 : Reg) (s : State) : Out :=
  finish s <| .ok (s.set rd (s.get rs1 ^^^ s.get rs2))

/-- PSUB (R142): subtraction is XOR too (R131). -/
def execPsub (rd rs1 rs2 : Reg) (s : State) : Out :=
  finish s <| .ok (s.set rd (s.get rs1 ^^^ s.get rs2))

/-- PMUL (R143): E_OVERFLOW where the exact product has a bit at 64 or above. -/
def execPmul (rd rs1 rs2 : Reg) (s : State) : Out :=
  finish s <|
    let p := clmul (s.u64 rs1) (s.u64 rs2)
    if 2 ^ 64 ≤ p then fails .overflow else .ok (s.setNat rd p)

/-- PQUOREM (R144). -/
def execPquorem (rd rd2 rs1 rs2 : Reg) (s : State) : Out :=
  finish s <|
    let a := s.u64 rs1
    let b := s.u64 rs2
    if b = 0 then fails .divzero
    else .ok ((s.setNat rd (pquorem a b).1).setNat rd2 (pquorem a b).2)

/-- PPOW (R145): the checks in the order E_NEGEXP, E_ZEROZERO, E_OVERFLOW. -/
def execPpow (rd rs1 rs2 : Reg) (s : State) : Out :=
  finish s <|
    let a := s.u64 rs1
    let e := s.s64 rs2
    if e < 0 then fails .negexp
    else if a = 0 ∧ e = 0 then fails .zerozero
    else if 1 < a ∧ 63 < e.toNat * deg a then fails .overflow
    else .ok (s.setNat rd (ppow a e.toNat))

/-- PGCD (R146). -/
def execPgcd (rd rs1 rs2 : Reg) (s : State) : Out :=
  finish s <| .ok (s.setNat rd (pgcd (s.u64 rs1) (s.u64 rs2)))

/-- PXGCD (R147). -/
def execPxgcd (rd rd2 rd3 rs1 rs2 : Reg) (s : State) : Out :=
  finish s <|
    let g := pxgcd (s.u64 rs1) (s.u64 rs2)
    .ok (((s.setNat rd g.1).setNat rd2 g.2.1).setNat rd3 g.2.2)

/-- PDERIV (R148). -/
def execPderiv (rd rs1 : Reg) (s : State) : Out :=
  finish s <| .ok (s.setNat rd (pderiv (s.u64 rs1)))

/-- PSQRT (R149): "not a perfect square" is a result, not an error. -/
def execPsqrt (rd rd2 rs1 : Reg) (s : State) : Out :=
  finish s <|
    match psqrt (s.u64 rs1) with
    | none => .ok ((s.setNat rd 0).setBool rd2 false)
    | some r => .ok ((s.setNat rd r).setBool rd2 true)

end Sys2Proof.Machine
end

