-- ==== Sys2Proof/Machine/FactorList.lean ====
section
/-! DEFINITION. Factor lists: ordered lists of (base, multiplicity) pairs (10_state.md R34, R36, R37). -/

namespace Sys2Proof.Machine

/-- A factor list, the bases ascending (R34). -/
abbrev FacList := List (Nat × Nat)

/-- FacInsert(L, b, m): add m to the multiplicity of base b, or insert (b, m) where the bases stay ascending (R36). -/
def facInsert : FacList → Nat → Nat → FacList
  | [], b, m => [(b, m)]
  | (c, k) :: t, b, m =>
    if b = c then (c, k + m) :: t
    else if b < c then (b, m) :: (c, k) :: t
    else (c, k) :: facInsert t b m

/-- FacMerge(L, G): insert the pairs of G in order (R37). -/
def facMerge (l g : FacList) : FacList := g.foldl (fun acc p => facInsert acc p.1 p.2) l

/-- FacScale(L, k): multiply every multiplicity (R37). -/
def facScale (l : FacList) (k : Nat) : FacList := l.map fun p => (p.1, p.2 * k)

end Sys2Proof.Machine
end

