-- ==== Sys2Proof/Machine/Berlekamp.lean ====
section
/-! DEFINITION. Factorisation over GF(2): square-free decomposition and Berlekamp splitting (42_f2polyfactor.md section
1). The fatal conditions are kept where the spec has them (60_exceptions.md R289). -/

namespace Sys2Proof.Machine

/-- The powers x^0, x^2, x^4, ... mod f, as many as n, from the first one `c` (R161). -/
def squarePowers (f : Nat) : Nat → Nat → List Nat
  | 0, _ => []
  | n + 1, c => c :: squarePowers f n (pmodp (c <<< 2) f)

/-- bkmat(f) for deg(f) = n at least 1: column i holds x^(2i) mod f, plus the identity (R161, 90_conflicts.md C1). -/
def bkmat (f : Nat) : List Nat :=
  let cols := squarePowers f (deg f) 1
  (List.range (deg f)).map fun r => bitsToNat (cols.map fun c => c.testBit r) ^^^ (1 <<< r)

/-- The search of R162 for a kernel vector that splits `f`. `factor` factors a part in the full mode. -/
def splitBy (factor : Nat → Except FatalCode FacList) (f : Nat) (shallow : Bool) :
    List Nat → Except FatalCode FacList
  | [] => .error .nosplit
  | h :: ks =>
    if h = 0 then splitBy factor f shallow ks
    else
      let h1 := h ^^^ 1
      if pmulmod f h h ≠ h ∨ pmulmod f h1 h1 ≠ h1 then .error .idemp
      else
        let f1 := pgcd f h
        let f2 := pgcd f h1
        if f1 = 1 ∨ f2 = 1 then splitBy factor f shallow ks
        else if shallow then .ok (facInsert (facInsert [] f1 1) f2 1)
        else
          match factor f1, factor f2 with
          | .ok l1, .ok l2 => .ok (facMerge l1 l2)
          | .error e, _ => .error e
          | _, .error e => .error e

/-- berlekamp(f, shallow) for a square-free f (R162). -/
def berlekamp (factor : Nat → Except FatalCode FacList) (f : Nat) (shallow : Bool) :
    Except FatalCode FacList :=
  let n := deg f
  if n < 2 then .ok [(f, 1)]
  else
    let q := bkmat f
    if n - rankof n q = 1 then .ok [(f, 1)]
    else
      match kernelBasis n q with
      | .error e => .error e
      | .ok k => splitBy factor f shallow k

/-- preBerlekamp(f, shallow) with at most `n` calls inside each other (R163). The degree falls at every call (R170),
so deg(f) + 1 calls suffice and the first case is not reached. -/
def preBerlekamp : Nat → Bool → Nat → Except FatalCode FacList
  | 0, _, f => .ok [(f, 1)]
  | n + 1, shallow, f =>
    let d := pderiv f
    let g := pgcd f d
    if g = 0 then (if f ≠ 0 then .error .gzero else .ok [(f, 1)])
    else if g = 1 then berlekamp (preBerlekamp n false) f shallow
    else if d = 0 then
      match preBerlekamp n shallow ((psqrt f).getD 0) with
      | .ok l => .ok (facScale l 2)
      | .error e => .error e
    else
      match preBerlekamp n shallow g, preBerlekamp n shallow (pquorem f g).1 with
      | .ok l1, .ok l2 => .ok (facMerge l1 l2)
      | .error e, _ => .error e
      | _, .error e => .error e

/-- pfactor(f): the trivial factor, if any, and the factor list (R164). -/
def pfactor (f : Nat) : Except FatalCode (Option Nat × FacList) :=
  if deg f = 0 then .ok (some f, [])
  else
    match preBerlekamp (deg f + 1) false f with
    | .ok l => .ok (none, l)
    | .error e => .error e

/-- irr(f): the irreducibility test in the shallow mode (R165, 90_conflicts.md C6). -/
def irr (f : Nat) : Except FatalCode Bool :=
  if deg f = 0 then .ok false
  else if deg f = 1 then .ok true
  else
    match preBerlekamp (deg f + 1) true f with
    | .ok l => .ok (l = [(f, 1)])
    | .error e => .error e

/-- The search of R166 over the candidates c, c + 2, ..., as many as n. -/
def lowestirrLoop : Nat → Nat → Except FatalCode (Option Nat)
  | 0, _ => .ok none
  | n + 1, c =>
    match irr c with
    | .error e => .error e
    | .ok true => .ok (some c)
    | .ok false => lowestirrLoop n (c + 2)

/-- lowestirr(d) for 1 <= d <= 63: from (1 << d) OR 1 by steps of 2 below 1 << (d + 1), 2^(d-1) candidates (R166). -/
def lowestirr (d : Nat) : Except FatalCode (Option Nat) := lowestirrLoop (2 ^ (d - 1)) ((1 <<< d) ||| 1)

/-- The candidate PRANDIRR makes of one draw (R167). -/
def candidate (d : Nat) (w : Word) : Nat := w.toNat % 2 ^ d ||| (1 <<< d) ||| 1

/-- ptotient(f) for f not 0: the product of (2^deg p)^(e-1) * (2^deg p - 1) over the factor list (R168). -/
def ptotient (f : Nat) : Except FatalCode Nat :=
  match pfactor f with
  | .error e => .error e
  | .ok tl => .ok ((tl.2.map fun p => (2 ^ deg p.1) ^ (p.2 - 1) * (2 ^ deg p.1 - 1)).prod)

end Sys2Proof.Machine
end

