-- ==== Sys2Proof/Machine/F2PolyFactor.lean ====
section
/-! DEFINITION. The F2PolyFactor commands (42_f2polyfactor.md section 2). -/

namespace Sys2Proof.Machine

/-- Store a factor list: FACB, FACM, FSTAT and FTRIV (R173, 44_intarith.md R229). The entries at the new count and
above keep what they held (log entry 15). -/
def State.storeFactors (s : State) (kind : Nat) (trivial : Option Word) (l : FacList) : Result :=
  onCell (State.memWriteAll .facb 64 (l.map Prod.fst) 0 s) fun s1 =>
    onCell (State.memWriteAll .facm 64 (l.map Prod.snd) 0 s1) fun s2 =>
      .ok { s2 with fstat := fstatWord l.length kind trivial.isSome, ftriv := trivial.getD 0 }

/-- BKMAT (R172). -/
def execBkmat (rs1 : Reg) (s : State) : Out :=
  finish s <|
    let f := s.u64 rs1
    if deg f = 0 then fails .undef
    else
      onCell (State.memWriteAll .mat (deg f) (bkmat f) 0 { s with mdim := dimWord (deg f) (deg f) }) fun s' =>
        .ok (s'.setMatv true)

/-- PFACTOR (R173). -/
def execPfactor (rs1 : Reg) (s : State) : Out :=
  finish s <| onFatal (pfactor (s.u64 rs1)) fun tl =>
    s.storeFactors 1 (tl.1.map (BitVec.ofNat 64)) tl.2

/-- FGET (R174). -/
def execFget (rd rd2 rs1 : Reg) (s : State) : Out :=
  finish s <| needCtx (s.fkind ≠ 0) <| needIndex (s.s64 rs1) s.fcount fun i =>
    onCell (s.memRead .facb i 64) fun b => onCell (s.memRead .facm i 64) fun m =>
      .ok ((s.setNat rd b).setNat rd2 m)

/-- PIRR (R175). -/
def execPirr (rd rs1 : Reg) (s : State) : Out :=
  finish s <| onFatal (irr (s.u64 rs1)) fun b => .ok (s.setBool rd b)

/-- PLOWIRR (R176). -/
def execPlowirr (rd rs1 : Reg) (s : State) : Out :=
  finish s <|
    let d := s.s64 rs1
    if d < 1 ∨ 63 < d then fails .undef
    else
      onFatal (lowestirr d.toNat) fun c =>
        match c with
        | none => fails .notfound
        | some c => .ok (s.setNat rd c)

/-- What the search of PRANDIRR does with one draw, `s'` being the state with the draw taken: it completes, or it
goes on (R167). A fatal condition writes nothing but the error record, and ends the search. -/
def searchDraw (j : Search) (w : Word) (s' : State) : Out :=
  match irr (candidate j.degree w) with
  | .error f => finish (s' : State) (.error (.fatal f))
  | .ok true => finish s' (.ok (s'.setNat j.rd (candidate j.degree w)))
  | .ok false => .next { s' with search := some j }

/-- The search of PRANDIRR over the supplied draws (R167): the first draw whose candidate is irreducible completes
it; where none is, the command is still in progress and all of them are used up (70_reset_and_hazards.md R325). -/
def searchSupplied (j : Search) : List Word → State → Out
  | [], s => .next { s with rnd := [], search := some j }
  | w :: ws, s =>
    match irr (candidate j.degree w) with
    | .ok false => searchSupplied j ws s
    | _ => searchDraw j w { s with rnd := ws, search := none }

/-- PRANDIRR (R177). -/
def execPrandirr (rd rs1 : Reg) (s : State) : Out :=
  let d := s.s64 rs1
  if d < 1 ∨ 63 < d then finish s (fails .undef)
  else searchSupplied { rd := rd, degree := d.toNat } s.rnd s

/-- One more draw of a PRANDIRR in progress (R167, R46). -/
def searchStep (j : Search) (s : State) : Out :=
  searchDraw j s.draw.1 { s.draw.2 with search := none }

/-- PTOTIENT (R178). -/
def execPtotient (rd rs1 : Reg) (s : State) : Out :=
  finish s <|
    let f := s.u64 rs1
    if f = 0 then fails .undef else onFatal (ptotient f) fun t => .ok (s.setNat rd t)

end Sys2Proof.Machine
end

