-- ==== Sys2Proof/Machine/F2PolyMod.lean ====
section
/-! DEFINITION. The F2PolyMod commands (43_f2polymod.md section 2). M is u64(PMOD). Every source word of a residue
operand is reduced modulo M when read (10_state.md R39). -/

namespace Sys2Proof.Machine

/-- M, the polynomial modulus (R190). -/
def State.pm (s : State) : Nat := s.pmod.toNat

/-- A residue operand: the register reduced modulo M (R190). -/
def State.presidue (s : State) (r : Reg) : Nat := pmodp (s.u64 r) s.pm

/-- Go on with the inverse of the residue `a`; E_DIVZERO for a zero residue without one, E_NOTINV for another
non-unit (R199, 90_conflicts.md C8). -/
def needInverse (inverse : Option Nat) (a : Nat) (k : Nat → Result) : Result :=
  match inverse with
  | some r => k r
  | none => if a = 0 then fails .divzero else fails .notinv

/-- PMSETMOD (R193). A failed construction invalidates the context, and leaves PMOD. -/
def execPmsetmod (rs1 : Reg) (s : State) : Out :=
  if s.u64 rs1 = 0 then finish (s.setPmodv false) (fails .construct)
  else finish s <| .ok ({ s with pmod := s.get rs1 }.setPmodv true)

/-- PMRED (R194). -/
def execPmred (rd rs1 : Reg) (s : State) : Out :=
  finish s <| needCtx s.pmodv <| .ok (s.setNat rd (s.presidue rs1))

/-- PMADD (R195). -/
def execPmadd (rd rs1 rs2 : Reg) (s : State) : Out :=
  finish s <| needCtx s.pmodv <| .ok (s.setNat rd (s.presidue rs1 ^^^ s.presidue rs2))

/-- PMSUB (R196). -/
def execPmsub (rd rs1 rs2 : Reg) (s : State) : Out :=
  finish s <| needCtx s.pmodv <| .ok (s.setNat rd (s.presidue rs1 ^^^ s.presidue rs2))

/-- PMMUL (R197). -/
def execPmmul (rd rs1 rs2 : Reg) (s : State) : Out :=
  finish s <| needCtx s.pmodv <| .ok (s.setNat rd (pmulmod s.pm (s.presidue rs1) (s.presidue rs2)))

/-- PMDIV (R198): the product with the inverse of the divisor. -/
def execPmdiv (rd rs1 rs2 : Reg) (s : State) : Out :=
  finish s <| needCtx s.pmodv <|
    needInverse (precip s.pm (s.presidue rs2)) (s.presidue rs2) fun r =>
      .ok (s.setNat rd (pmulmod s.pm (s.presidue rs1) r))

/-- PMRECIP (R199). -/
def execPmrecip (rd rs1 : Reg) (s : State) : Out :=
  finish s <| needCtx s.pmodv <|
    needInverse (precip s.pm (s.presidue rs1)) (s.presidue rs1) fun r => .ok (s.setNat rd r)

/-- PMPOW (R201): a negative exponent inverts first, and its magnitude is exact. -/
def execPmpow (rd rs1 rs2 : Reg) (s : State) : Out :=
  finish s <| needCtx s.pmodv <|
    let a := s.presidue rs1
    let e := s.s64 rs2
    if a = 0 ∧ e = 0 then fails .zerozero
    else if e < 0 then
      needInverse (precip s.pm a) a fun r => .ok (s.setNat rd (ppowmod s.pm r e.natAbs))
    else .ok (s.setNat rd (ppowmod s.pm a e.natAbs))

/-- PMNEXTU (R200): the least unit above the (unreduced) operand and below 2^deg(M), or 0. -/
def execPmnextu (rd rs1 : Reg) (s : State) : Out :=
  finish s <| needCtx s.pmodv <|
    let p := s.u64 rs1
    .ok (s.setNat rd ((findUp (punit s.pm) (2 ^ deg s.pm - (p + 1)) (p + 1)).getD 0))

end Sys2Proof.Machine
end

