-- ==== Sys2Proof/Machine/IntMath.lean ====
section
/-! DEFINITION. The integer helpers (44_intarith.md section 1), on unbounded integers (R220, 00_scope.md R15). -/

namespace Sys2Proof.Machine

/-- v mod m for m >= 1, in 0 to m - 1 also for negative v (00_scope.md R14). -/
def imodm (m : Nat) (v : Int) : Nat := (v % (m : Int)).toNat

/-- Euclid's loop of R210. -/
def igcdLoop : Nat → Nat → Nat → Nat
  | 0, u, _ => u
  | n + 1, u, v => if v = 0 then u else igcdLoop n v (u % v)

/-- igcd(a, b) (R210). The second number falls in every round, so |b| + 1 rounds suffice. -/
def igcd (a b : Int) : Nat := igcdLoop (b.natAbs + 1) a.natAbs b.natAbs

/-- The three-row loop of R211, rows (r0, s0, t0) and (r1, s1, t1). -/
def ixgcdLoop : Nat → Nat → Int → Int → Nat → Int → Int → Nat × Int × Int
  | 0, r0, s0, t0, _, _, _ => (r0, s0, t0)
  | n + 1, r0, s0, t0, r1, s1, t1 =>
    if r1 = 0 then (r0, s0, t0)
    else
      let q := r0 / r1
      ixgcdLoop n r1 s1 t1 (r0 - q * r1) (s0 - q * s1) (t0 - q * t1)

/-- The sign factor of an operand, +1 for 0 (R211). -/
def signOf (a : Int) : Int := if a < 0 then -1 else 1

/-- ixgcd(a, b): (g, s, t) with g = igcd(a, b) and s*a + t*b = g (R211). -/
def ixgcd (a b : Int) : Nat × Int × Int :=
  let r := ixgcdLoop (b.natAbs + 1) a.natAbs 1 0 b.natAbs 0 1
  (r.1, signOf a * r.2.1, signOf b * r.2.2)

/-- ilcm(a, b) (R212). -/
def ilcm (a b : Int) : Nat := if a = 0 ∨ b = 0 then 0 else a.natAbs / igcd a b * b.natAbs

/-- The number of k in 1 to `k` with igcd(k, n) = 1. -/
def countCoprime (n : Nat) : Nat → Nat
  | 0 => 0
  | k + 1 => countCoprime n k + (if igcd (k + 1 : Nat) n = 1 then 1 else 0)

/-- phi(n) for n >= 1: the number of k in 1 to n that are coprime to n (R213). -/
def phi (n : Nat) : Nat := countCoprime n n

/-- imodexp(x, e, m) for m >= 1 and e >= 0 (R214). -/
def imodexp (m : Nat) (x : Int) (e : Nat) : Nat :=
  powLoop (fun a b => a * b % m) e (1 % m) (imodm m x) e

/-- imodrecip(x, m) for m >= 1: the inverse of x modulo m, none where gcd(x, m) is not 1. R215 fixes the value and
allows the extended Euclidean algorithm for it (log entry 9). -/
def imodrecip (m : Nat) (x : Int) : Option Nat :=
  let g := ixgcd (imodm m x) m
  if g.1 ≠ 1 then none else some (imodm m g.2.1)

/-- ifactorial(n): the product of 1 to n (R216). -/
def ifactorial : Nat → Nat
  | 0 => 1
  | n + 1 => (n + 1) * ifactorial n

/-- The inner loop of R217: while c divides v, record c and divide. v rounds suffice for c >= 2. -/
def divideOut (c : Nat) : Nat → Nat → FacList → Nat × FacList
  | 0, v, l => (v, l)
  | n + 1, v, l => if v % c = 0 then divideOut c n (v / c) (facInsert l c 1) else (v, l)

/-- The outer loop of R217 over the odd candidates c, with the stop at c*c > v that R217 allows: what remains then,
if not 1, is the last prime (log entry 10). -/
def trialLoop : Nat → Nat → Nat → FacList → FacList
  | 0, _, _, l => l
  | n + 1, c, v, l =>
    if v < c * c then (if 1 < v then facInsert l v 1 else l)
    else
      let r := divideOut c v v l
      trialLoop n (c + 2) r.1 r.2

/-- The factor list of v >= 1: trial division by 2, then by the odd candidates from 3 (R217). -/
def factorNat (v : Nat) : FacList :=
  let r := divideOut 2 v v []
  trialLoop (r.1 + 1) 3 r.1 r.2

/-- ifactor(n) for n not 0: the sign as a trivial factor, and the factor list of |n| (R217). -/
def ifactor (n : Int) : Int × FacList := (signOf n, factorNat n.natAbs)

/-- The powers 1, p, ..., p^e, each times d. -/
def timesPowers (p d : Nat) : Nat → List Nat
  | 0 => [d]
  | e + 1 => timesPowers p d e ++ [d * p ^ (e + 1)]

/-- Insert a number into an ascending list. -/
def insertAsc (a : Nat) : List Nat → List Nat
  | [] => [a]
  | b :: t => if a ≤ b then a :: b :: t else b :: insertAsc a t

/-- The positive divisors of n >= 1, ascending, built from its factor list as the source builds them (R218). -/
def divisorsAsc (n : Nat) : List Nat :=
  ((factorNat n).foldl (fun ds p => ds.flatMap fun d => timesPowers p.1 d p.2) [1]).foldr insertAsc []

/-- nextdiv(n, p) for n not 0: the least positive divisor of n above p, if any (R218). -/
def nextdiv (n p : Int) : Option Nat := (divisorsAsc n.natAbs).find? fun d => decide (p < (d : Int))

/-- itotient(n) for n >= 1: the product of p^(e-1) * (p - 1) over the factor list (R219). -/
def itotient (n : Nat) : Nat := ((factorNat n).map fun p => p.1 ^ (p.2 - 1) * (p.1 - 1)).prod

/-- The unit test of Z/mZ (46_order.md R260). -/
def iunit (m a : Nat) : Bool := igcd a m = 1

end Sys2Proof.Machine
end

