-- ==== Sys2Proof/Machine/IntArith.lean ====
section
/-! DEFINITION. The IntArith and IntFactor commands (44_intarith.md section 2). Every operand is read by s64 (R220). -/

namespace Sys2Proof.Machine

/-- IGCD (R221). -/
def execIgcd (rd rs1 rs2 : Reg) (s : State) : Out :=
  finish s <|
    let g := igcd (s.s64 rs1) (s.s64 rs2)
    needInt63 g <| .ok (s.setNat rd g)

/-- IXGCD (R222). -/
def execIxgcd (rd rd2 rd3 rs1 rs2 : Reg) (s : State) : Out :=
  finish s <|
    let g := ixgcd (s.s64 rs1) (s.s64 rs2)
    needInt63 g.1 <| .ok (((s.setNat rd g.1).setInt rd2 g.2.1).setInt rd3 g.2.2)

/-- ILCM (R223). -/
def execIlcm (rd rs1 rs2 : Reg) (s : State) : Out :=
  finish s <|
    let l := ilcm (s.s64 rs1) (s.s64 rs2)
    needInt63 l <| .ok (s.setNat rd l)

/-- IPHI (R224). -/
def execIphi (rd rs1 : Reg) (s : State) : Out :=
  finish s <|
    let n := s.s64 rs1
    if n ≤ 0 then fails .undef else .ok (s.setNat rd (phi n.toNat))

/-- IMODEXP (R225): the checks in the order E_DIVZERO, E_UNDEF, E_NEGEXP. -/
def execImodexp (rd rs1 rs2 rs3 : Reg) (s : State) : Out :=
  finish s <|
    let e := s.s64 rs2
    let m := s.s64 rs3
    if m = 0 then fails .divzero
    else if m < 0 then fails .undef
    else if e < 0 then fails .negexp
    else .ok (s.setNat rd (imodexp m.toNat (s.s64 rs1) e.toNat))

/-- IMODRECIP (R226): the checks in the order E_DIVZERO, E_UNDEF, E_NOTINV. -/
def execImodrecip (rd rs1 rs2 : Reg) (s : State) : Out :=
  finish s <|
    let m := s.s64 rs2
    if m = 0 then fails .divzero
    else if m < 0 then fails .undef
    else
      match imodrecip m.toNat (s.s64 rs1) with
      | none => fails .notinv
      | some r => .ok (s.setNat rd r)

/-- IFACT (R228). -/
def execIfact (rd rs1 : Reg) (s : State) : Out :=
  finish s <|
    let n := s.s64 rs1
    if n < 0 then fails .undef
    else if 20 < n then fails .overflow
    else .ok (s.setNat rd (ifactorial n.toNat))

/-- IFACTOR (R229). -/
def execIfactor (rs1 : Reg) (s : State) : Out :=
  finish s <|
    let n := s.s64 rs1
    if n = 0 then fails .undef
    else s.storeFactors 2 (some (BitVec.ofInt 64 (ifactor n).1)) (ifactor n).2

/-- IDIVNEXT (R227): 0 where there is no further divisor. -/
def execIdivnext (rd rs1 rs2 : Reg) (s : State) : Out :=
  finish s <|
    let n := s.s64 rs1
    if n = 0 then fails .undef
    else
      match nextdiv n (s.s64 rs2) with
      | none => .ok (s.setNat rd 0)
      | some d => needInt63 d <| .ok (s.setNat rd d)

/-- ITOTIENT (R230): FAC is not written. -/
def execItotient (rd rs1 : Reg) (s : State) : Out :=
  finish s <|
    let n := s.s64 rs1
    if n ≤ 0 then fails .undef else .ok (s.setNat rd (itotient n.toNat))

end Sys2Proof.Machine
end

