-- ==== Sys2Proof/Machine/IntMod.lean ====
section
/-! DEFINITION. The IntMod commands (45_intmod.md section 2). M is s64(IMOD), at least 1 whenever imodv = 1. Every
source word of a residue operand is normalised into 0 to M - 1 when read (10_state.md R40); sums, differences and
products are exact (R249). -/

namespace Sys2Proof.Machine

/-- M, the integer modulus (R240). -/
def State.im (s : State) : Nat := s.imod.toInt.toNat

/-- A residue operand: s64 of the register mod M (R240). -/
def State.iresidue (s : State) (r : Reg) : Nat := imodm s.im (s.s64 r)

/-- IMSETMOD (R241). A failed construction invalidates the context, and leaves IMOD. -/
def execImsetmod (rs1 : Reg) (s : State) : Out :=
  if s.s64 rs1 ≤ 0 then finish (s.setImodv false) (fails .construct)
  else finish s <| .ok ({ s with imod := s.get rs1 }.setImodv true)

/-- IMRED (R242). -/
def execImred (rd rs1 : Reg) (s : State) : Out :=
  finish s <| needCtx s.imodv <| .ok (s.setNat rd (s.iresidue rs1))

/-- IMADD (R243). -/
def execImadd (rd rs1 rs2 : Reg) (s : State) : Out :=
  finish s <| needCtx s.imodv <| .ok (s.setNat rd ((s.iresidue rs1 + s.iresidue rs2) % s.im))

/-- IMSUB (R244). -/
def execImsub (rd rs1 rs2 : Reg) (s : State) : Out :=
  finish s <| needCtx s.imodv <|
    .ok (s.setNat rd (imodm s.im ((s.iresidue rs1 : Int) - (s.iresidue rs2 : Int))))

/-- IMMUL (R245). -/
def execImmul (rd rs1 rs2 : Reg) (s : State) : Out :=
  finish s <| needCtx s.imodv <| .ok (s.setNat rd (s.iresidue rs1 * s.iresidue rs2 % s.im))

/-- IMDIV (R246): the product with the inverse of the divisor. -/
def execImdiv (rd rs1 rs2 : Reg) (s : State) : Out :=
  finish s <| needCtx s.imodv <|
    needInverse (imodrecip s.im (s.iresidue rs2)) (s.iresidue rs2) fun r =>
      .ok (s.setNat rd (s.iresidue rs1 * r % s.im))

/-- IMRECIP (R247). -/
def execImrecip (rd rs1 : Reg) (s : State) : Out :=
  finish s <| needCtx s.imodv <|
    needInverse (imodrecip s.im (s.iresidue rs1)) (s.iresidue rs1) fun r => .ok (s.setNat rd r)

/-- IMPOW (R248): a negative exponent inverts first, and its magnitude is exact. -/
def execImpow (rd rs1 rs2 : Reg) (s : State) : Out :=
  finish s <| needCtx s.imodv <|
    let a := s.iresidue rs1
    let e := s.s64 rs2
    if a = 0 ∧ e = 0 then fails .zerozero
    else if e < 0 then
      needInverse (imodrecip s.im a) a fun r => .ok (s.setNat rd (imodexp s.im r e.natAbs))
    else .ok (s.setNat rd (imodexp s.im a e.natAbs))

/-- IMNEXTU (R250): the least unit above the (unreduced, signed) operand and below M, or 0. -/
def execImnextu (rd rs1 : Reg) (s : State) : Out :=
  finish s <| needCtx s.imodv <|
    let p := (s.s64 rs1).toNat
    .ok (s.setNat rd ((findUp (iunit s.im) (s.im - (p + 1)) (p + 1)).getD 0))

end Sys2Proof.Machine
end

