-- ==== Sys2Proof/Machine/OrderMath.lean ====
section
/-! DEFINITION. Multiplicative order, maximal order, generators and the primitivity test (46_order.md section 1). The
ring is given by its power `pow a d`, its `one` and the unit test, as in the table of R260. -/

namespace Sys2Proof.Machine

/-- order(a) for a unit a: the first divisor d of phi, ascending, with a^d = one (R260). -/
def order (pow : Nat → Nat → Nat) (one phi a : Nat) : Option Nat :=
  (divisorsAsc phi).find? fun d => pow a d = one

/-- order(a) in Z/mZ, phi = itotient(m) (R260). -/
def iorder (m phi a : Nat) : Option Nat := order (fun b d => imodexp m b d) (1 % m) phi a

/-- order(a) in F2[x]/(m), phi = ptotient(m) (R260). -/
def porder (m phi a : Nat) : Option Nat := order (ppowmod m) (pmodp 1 m) phi a

/-- The units the searches run over: u from 1 below `bound`, ascending (R268). -/
def unitsBelow (unit : Nat → Bool) (bound : Nat) : List Nat := (List.range' 1 (bound - 1)).filter unit

/-- The maximum of order(u) over a list of units (R263). -/
def maxOrder (order : Nat → Option Nat) (units : List Nat) : Nat :=
  (units.filterMap order).foldl max 0

/-- The least unit below `bound` whose order is phi, if any (R265). -/
def leastGenerator (order : Nat → Option Nat) (unit : Nat → Bool) (phi bound : Nat) : Option Nat :=
  findUp (fun u => unit u && order u = some phi) (bound - 1) 1

/-- primitive(m) for deg(m) >= 1: x is a unit and generates the unit group (R269, 90_conflicts.md C5). -/
def primitive (m : Nat) : Except FatalCode Bool :=
  match ptotient m with
  | .error e => .error e
  | .ok phi =>
    let xx := pmodp 2 m
    let one := pmodp 1 m
    .ok (pgcd 2 m = 1 && (factorNat phi).all (fun q => ppowmod m xx (phi / q.1) ≠ one) &&
      ppowmod m xx phi = one)

end Sys2Proof.Machine
end

