-- ==== Sys2Proof/Machine/Order.lean ====
section
/-! DEFINITION. The Order commands (46_order.md section 2). No command of this file writes a bank or a context. -/

namespace Sys2Proof.Machine

/-- The order of a unit as a result; E_NOTFOUND where the scan finds none, which cannot happen (R261). -/
def orderResult (rd : Reg) (s : State) (o : Option Nat) : Result :=
  match o with
  | none => fails .notfound
  | some d => .ok (s.setNat rd d)

/-- IMORDER (R261). -/
def execImorder (rd rs1 : Reg) (s : State) : Out :=
  finish s <| needCtx s.imodv <|
    let a := s.iresidue rs1
    if iunit s.im a then orderResult rd s (iorder s.im (itotient s.im) a) else fails .notinv

/-- PMORDER (R262). -/
def execPmorder (rd rs1 : Reg) (s : State) : Out :=
  finish s <| needCtx s.pmodv <|
    let a := s.presidue rs1
    if punit s.pm a then
      onFatal (ptotient s.pm) fun phi => orderResult rd s (porder s.pm phi a)
    else fails .notinv

/-- IMMAXORD (R263). -/
def execImmaxord (rd : Reg) (s : State) : Out :=
  finish s <| needCtx s.imodv <|
    let units := unitsBelow (iunit s.im) s.im
    if units = [] then fails .undef
    else .ok (s.setNat rd (maxOrder (iorder s.im (itotient s.im)) units))

/-- PMMAXORD (R264). -/
def execPmmaxord (rd : Reg) (s : State) : Out :=
  finish s <| needCtx s.pmodv <|
    let units := unitsBelow (punit s.pm) (2 ^ deg s.pm)
    if units = [] then fails .undef
    else onFatal (ptotient s.pm) fun phi => .ok (s.setNat rd (maxOrder (porder s.pm phi) units))

/-- IMGEN (R265): the least generator. -/
def execImgen (rd : Reg) (s : State) : Out :=
  finish s <| needCtx s.imodv <|
    let phi := itotient s.im
    orderResult rd s (leastGenerator (iorder s.im phi) (iunit s.im) phi s.im)

/-- PMGEN (R266). -/
def execPmgen (rd : Reg) (s : State) : Out :=
  finish s <| needCtx s.pmodv <| onFatal (ptotient s.pm) fun phi =>
    orderResult rd s (leastGenerator (porder s.pm phi) (punit s.pm) phi (2 ^ deg s.pm))

/-- PPRIM (R267). -/
def execPprim (rd rs1 : Reg) (s : State) : Out :=
  finish s <|
    let m := s.u64 rs1
    if deg m = 0 then fails .undef else onFatal (primitive m) fun b => .ok (s.setBool rd b)

end Sys2Proof.Machine
end

