-- ==== Sys2Proof/Machine/Dispatch.lean ====
section
/-! DEFINITION. `exec`: one arm per command, each one call of that command's meaning (70_reset_and_hazards.md R329). -/

namespace Sys2Proof.Machine

def exec (i : Instr) (s : State) : Host.Outcome State Fault Refusal :=
  match i with
  -- BitVector and BitMatrix
  | .mnew rs1 rs2 => Sys2Proof.Machine.execMnew rs1 rs2 s
  | .msetrow rs1 rs2 => Sys2Proof.Machine.execMsetrow rs1 rs2 s
  | .mgetrow rd rs1 => Sys2Proof.Machine.execMgetrow rd rs1 s
  | .kgetrow rd rs1 => Sys2Proof.Machine.execKgetrow rd rs1 s
  | .bvget rd rs1 rs2 => Sys2Proof.Machine.execBvget rd rs1 rs2 s
  | .bvset rs1 rs2 => Sys2Proof.Machine.execBvset rs1 rs2 s
  | .bvtgl rs1 rs2 => Sys2Proof.Machine.execBvtgl rs1 rs2 s
  | .bvlead rd rs1 => Sys2Proof.Machine.execBvlead rd rs1 s
  | .mref => Sys2Proof.Machine.execMref s
  | .mrank rd => Sys2Proof.Machine.execMrank rd s
  | .mker => Sys2Proof.Machine.execMker s
  -- F2Poly
  | .pdeg rd rs1 => Sys2Proof.Machine.execPdeg rd rs1 s
  | .padd rd rs1 rs2 => Sys2Proof.Machine.execPadd rd rs1 rs2 s
  | .psub rd rs1 rs2 => Sys2Proof.Machine.execPsub rd rs1 rs2 s
  | .pmul rd rs1 rs2 => Sys2Proof.Machine.execPmul rd rs1 rs2 s
  | .pquorem rd rd2 rs1 rs2 => Sys2Proof.Machine.execPquorem rd rd2 rs1 rs2 s
  | .ppow rd rs1 rs2 => Sys2Proof.Machine.execPpow rd rs1 rs2 s
  | .pgcd rd rs1 rs2 => Sys2Proof.Machine.execPgcd rd rs1 rs2 s
  | .pxgcd rd rd2 rd3 rs1 rs2 => Sys2Proof.Machine.execPxgcd rd rd2 rd3 rs1 rs2 s
  | .pderiv rd rs1 => Sys2Proof.Machine.execPderiv rd rs1 s
  | .psqrt rd rd2 rs1 => Sys2Proof.Machine.execPsqrt rd rd2 rs1 s
  -- F2PolyFactor
  | .bkmat rs1 => Sys2Proof.Machine.execBkmat rs1 s
  | .pfactor rs1 => Sys2Proof.Machine.execPfactor rs1 s
  | .fget rd rd2 rs1 => Sys2Proof.Machine.execFget rd rd2 rs1 s
  | .pirr rd rs1 => Sys2Proof.Machine.execPirr rd rs1 s
  | .plowirr rd rs1 => Sys2Proof.Machine.execPlowirr rd rs1 s
  | .prandirr rd rs1 => Sys2Proof.Machine.execPrandirr rd rs1 s
  | .ptotient rd rs1 => Sys2Proof.Machine.execPtotient rd rs1 s
  -- F2PolyMod
  | .pmsetmod rs1 => Sys2Proof.Machine.execPmsetmod rs1 s
  | .pmred rd rs1 => Sys2Proof.Machine.execPmred rd rs1 s
  | .pmadd rd rs1 rs2 => Sys2Proof.Machine.execPmadd rd rs1 rs2 s
  | .pmsub rd rs1 rs2 => Sys2Proof.Machine.execPmsub rd rs1 rs2 s
  | .pmmul rd rs1 rs2 => Sys2Proof.Machine.execPmmul rd rs1 rs2 s
  | .pmdiv rd rs1 rs2 => Sys2Proof.Machine.execPmdiv rd rs1 rs2 s
  | .pmrecip rd rs1 => Sys2Proof.Machine.execPmrecip rd rs1 s
  | .pmpow rd rs1 rs2 => Sys2Proof.Machine.execPmpow rd rs1 rs2 s
  | .pmnextu rd rs1 => Sys2Proof.Machine.execPmnextu rd rs1 s
  -- IntArith and IntFactor
  | .igcd rd rs1 rs2 => Sys2Proof.Machine.execIgcd rd rs1 rs2 s
  | .ixgcd rd rd2 rd3 rs1 rs2 => Sys2Proof.Machine.execIxgcd rd rd2 rd3 rs1 rs2 s
  | .ilcm rd rs1 rs2 => Sys2Proof.Machine.execIlcm rd rs1 rs2 s
  | .iphi rd rs1 => Sys2Proof.Machine.execIphi rd rs1 s
  | .imodexp rd rs1 rs2 rs3 => Sys2Proof.Machine.execImodexp rd rs1 rs2 rs3 s
  | .imodrecip rd rs1 rs2 => Sys2Proof.Machine.execImodrecip rd rs1 rs2 s
  | .ifact rd rs1 => Sys2Proof.Machine.execIfact rd rs1 s
  | .ifactor rs1 => Sys2Proof.Machine.execIfactor rs1 s
  | .idivnext rd rs1 rs2 => Sys2Proof.Machine.execIdivnext rd rs1 rs2 s
  | .itotient rd rs1 => Sys2Proof.Machine.execItotient rd rs1 s
  -- IntMod
  | .imsetmod rs1 => Sys2Proof.Machine.execImsetmod rs1 s
  | .imred rd rs1 => Sys2Proof.Machine.execImred rd rs1 s
  | .imadd rd rs1 rs2 => Sys2Proof.Machine.execImadd rd rs1 rs2 s
  | .imsub rd rs1 rs2 => Sys2Proof.Machine.execImsub rd rs1 rs2 s
  | .immul rd rs1 rs2 => Sys2Proof.Machine.execImmul rd rs1 rs2 s
  | .imdiv rd rs1 rs2 => Sys2Proof.Machine.execImdiv rd rs1 rs2 s
  | .imrecip rd rs1 => Sys2Proof.Machine.execImrecip rd rs1 s
  | .impow rd rs1 rs2 => Sys2Proof.Machine.execImpow rd rs1 rs2 s
  | .imnextu rd rs1 => Sys2Proof.Machine.execImnextu rd rs1 s
  -- Order
  | .imorder rd rs1 => Sys2Proof.Machine.execImorder rd rs1 s
  | .pmorder rd rs1 => Sys2Proof.Machine.execPmorder rd rs1 s
  | .immaxord rd => Sys2Proof.Machine.execImmaxord rd s
  | .pmmaxord rd => Sys2Proof.Machine.execPmmaxord rd s
  | .imgen rd => Sys2Proof.Machine.execImgen rd s
  | .pmgen rd => Sys2Proof.Machine.execPmgen rd s
  | .pprim rd rs1 => Sys2Proof.Machine.execPprim rd rs1 s

end Sys2Proof.Machine
end

