-- ==== Sys2Proof/Machine/Window.lean ====
section
/-! DEFINITION. The host window (20_memory.md R60 to R68, R75; map 10_state.md R26), a write to CMD
(10_state.md R27), and reset (70_reset_and_hazards.md R320). -/

namespace Sys2Proof.Machine

/-- The word index of CMD (10_state.md R26). -/
def cmdIndex : WinIndex := 0x10

/-- The word index of ESTICKY (10_state.md R26). -/
def estickyIndex : WinIndex := 0x12

/-- HostRead(w): the word at an index of the window (10_state.md R26); 0x1A to 0x1F read 0 (20_memory.md R67). -/
def State.hostRead (s : State) (w : WinIndex) : Word :=
  if w.toNat < Config.nreg then s.get (w.setWidth 4)
  else
    match w.toNat with
    | 0x10 => s.cmd
    | 0x11 => s.status
    | 0x12 => s.esticky
    | 0x13 => s.ecmd
    | 0x14 => s.pmod
    | 0x15 => s.imod
    | 0x16 => s.mdim
    | 0x17 => s.kdim
    | 0x18 => s.fstat
    | 0x19 => s.ftriv
    | _ => 0

/-- Run the word written to CMD, which CMD holds already: E_ILLEGAL where it is no legal command (30_encoding.md
R92), else the command. -/
def runCmd (s : State) : Out :=
  match decode s.cmd with
  | .error _ => finish s (fails .illegal)
  | .ok i => exec i s

/-- HostWrite(w, v) (70_reset_and_hazards.md R329): ignored in the fatal state (20_memory.md R75); to x[i] it stores;
to CMD it stores and executes (10_state.md R27); to ESTICKY it clears the bits written as 1 (10_state.md R29); to a
read-only or reserved index it does nothing (20_memory.md R67, R68). -/
def hostWrite (w : WinIndex) (v : Word) (s : State) : Out :=
  if s.fatal then .next s
  else if w.toNat < Config.nreg then .next (s.set (w.setWidth 4) v)
  else if w = cmdIndex then runCmd { s with cmd := v }
  else if w = estickyIndex then .next { s with esticky := s.esticky &&& ~~~v }
  else .next s

/-- Serve one host transaction (20_memory.md R62, R66). A read changes nothing but the word it answers. -/
def serve (op : HostOp) (s : State) : Out :=
  match op with
  | .read w => .next { s with reply := s.hostRead w }
  | .write w v => hostWrite w v s

/-- Reset (70_reset_and_hazards.md R320): every register takes its reset value and a command in progress is
abandoned. The bank cells are not cleared (R321). The block's inputs are not its state: the transactions not yet
served and the draws stay, and this reset is over (log entry 5). -/
def State.afterReset (s : State) : State :=
  { State.reset with
    mat := s.mat
    ker := s.ker
    facb := s.facb
    facm := s.facm
    hostq := s.hostq
    reply := s.reply
    rnd := s.rnd
    drawn := s.drawn }

/-- The bus byte address of byte k of a window word, on a byte-addressed bus (20_memory.md R64). -/
def busAddress (w : WinIndex) (k : Fin 8) : Nat := Config.hostBase + 8 * w.toNat + k

/-- The byte of a window word at byte offset k: bits 8k + 7 down to 8k, little-endian (20_memory.md R64). -/
def busByte (v : Word) (k : Fin 8) : BitVec 8 := v.extractLsb' (8 * k) 8

end Sys2Proof.Machine
end

