-- ==== Sys2Proof/Machine/Step.lean ====
section
/-! DEFINITION. One step of the block (70_reset_and_hazards.md R329). -/

namespace Sys2Proof.Machine

/-- One step: a reset that is asserted comes first (R320); a PRANDIRR in progress takes one more draw, and no host
transaction is served meanwhile (R325); otherwise the oldest host transaction is served (20_memory.md R70); with none
the block is idle (10_state.md R48). -/
def step (s : State) : Host.Outcome State Fault Refusal :=
  if s.resetLine then .next s.afterReset
  else
    match s.search with
    | some j => searchStep j s
    | none =>
      match s.hostq with
      | [] => .next s
      | op :: rest => serve op { s with hostq := rest }

/-- The state in which the next transaction the block serves is the write of a command word to CMD: the place from
which a step takes its command, since there is no instruction memory (10_state.md R24, 20_memory.md R73). The reset
input is released and no PRANDIRR is in progress, so that the very next step serves it. -/
def State.withFetchWord (s : State) (nbits w : Nat) : State :=
  { s with
    hostq := .write cmdIndex (BitVec.ofNat 64 (w % 2 ^ nbits)) :: s.hostq
    resetLine := false
    search := none }

end Sys2Proof.Machine
end

