-- ==== Sys2Proof/Safety.lean ====
section
/-! DEFINITION. What a sound state is (10_state.md R28 to R35), and the terms the statements use: whole-machine tables of
the spec, and the mathematics the commands compute, defined without the algorithms of the model. -/

namespace Sys2Proof.Machine

/-! ## Sound states -/

/-- The bits of ESTICKY that exist: 1 to 11 and 32 to 35 (10_state.md R29). -/
def stickyBits : Word := 0xF00000FFE

/-- The invariants the spec gives the state (10_state.md R28, R29, R31 to R35), and those of the model's own fields
(log entries 2 and 7). -/
structure Inv (s : State) : Prop where
  /-- The banks are in canonical form (log entry 2). -/
  memory : Memory.wf s
  /-- STATUS bits 63:13 are 0 (R28). -/
  statusZero : s.status.extractLsb' 13 51 = 0
  /-- STATUS.code is one of the completion codes (R28, 60_exceptions.md R281). -/
  code : s.code ≤ 11 ∨ 32 ≤ s.code ∧ s.code ≤ 35
  /-- STATUS.fatal is 1 exactly when the last code is a fatal one (R28, 60_exceptions.md R290). -/
  fatalCode : s.fatal = true ↔ 32 ≤ s.code
  /-- ESTICKY has no bits but those of the codes (R29). -/
  esticky : s.esticky &&& ~~~stickyBits = 0
  /-- pmodv = 1 implies PMOD is not 0 (R31). -/
  pmod : s.pmodv = true → s.pmod ≠ 0
  /-- imodv = 1 implies s64(IMOD) > 0 (R32). -/
  imod : s.imodv = true → 0 < s.imod.toInt
  /-- MDIM has no bits but its two fields, each at most 64 (R33). -/
  mdim : s.mdim = dimWord s.nrows s.ncols ∧ s.nrows ≤ 64 ∧ s.ncols ≤ 64
  /-- matv = 1 implies both dimensions are at least 1 (R33). -/
  matv : s.matv = true → 1 ≤ s.nrows ∧ 1 ≤ s.ncols
  /-- KDIM has no bits but its two fields, each at most 64 (R35). -/
  kdim : s.kdim = dimWord s.krows s.kcols ∧ s.krows ≤ 64 ∧ s.kcols ≤ 64
  /-- kerv = 1 implies the width of the basis is that of a matrix (R35). -/
  kerv : s.kerv = true → 1 ≤ s.kcols
  /-- FSTAT has no bits but its fields, FCOUNT at most 16 and FKIND at most 2 (R34). -/
  fstat : s.fstat = fstatWord s.fcount s.fkind s.ftrivv ∧ s.fcount ≤ 16 ∧ s.fkind ≤ 2
  /-- FTRIV is 0 unless a trivial factor is recorded; it is 0 or 1 in a polynomial list, and in an integer list it is
  recorded and is 1 or -1 (R34). -/
  ftriv : (s.ftrivv = false → s.ftriv = 0) ∧ (s.fkind = 0 → s.fcount = 0 ∧ s.ftrivv = false) ∧
    (s.fkind = 1 → s.ftriv = 0 ∨ s.ftriv = 1) ∧
    (s.fkind = 2 → s.ftrivv = true ∧ (s.ftriv = 1 ∨ s.ftriv = BitVec.allOnes 64))
  /-- A PRANDIRR in progress searches a degree it accepted, and the block is not in the fatal state (log entry 7). -/
  search : ∀ j, s.search = some j → 1 ≤ j.degree ∧ j.degree ≤ 63 ∧ s.fatal = false

/-- The invariants of a held factor list: bases strictly ascending and at least 2, multiplicities 1 to 63
(10_state.md R34). -/
structure FacOk (s : State) : Prop where
  ascending : ∀ i j, i < j → j < s.fcount → (s.cell .facb i).toNat < (s.cell .facb j).toNat
  base : ∀ i, i < s.fcount → 2 ≤ (s.cell .facb i).toNat
  multiplicity : ∀ i, i < s.fcount → 1 ≤ (s.cell .facm i).toNat ∧ (s.cell .facm i).toNat ≤ 63

/-! ## Tables of the spec -/

/-- The opcode map of 30_encoding.md R83: op, number of destinations, number of sources. -/
def formatTable : List (Nat × Nat × Nat) :=
  [(0x10, 0, 2), (0x11, 0, 2), (0x12, 1, 1), (0x13, 1, 1), (0x14, 1, 2), (0x15, 0, 2), (0x16, 0, 2), (0x17, 1, 1),
   (0x18, 0, 0), (0x19, 1, 0), (0x1A, 0, 0)] ++
  [(0x20, 1, 1), (0x21, 1, 2), (0x22, 1, 2), (0x23, 1, 2), (0x24, 2, 2), (0x25, 1, 2), (0x26, 1, 2), (0x27, 3, 2),
   (0x28, 1, 1), (0x29, 2, 1)] ++
  [(0x30, 0, 1), (0x31, 0, 1), (0x32, 2, 1), (0x33, 1, 1), (0x34, 1, 1), (0x35, 1, 1), (0x36, 1, 1)] ++
  [(0x40, 0, 1), (0x41, 1, 1), (0x42, 1, 2), (0x43, 1, 2), (0x44, 1, 2), (0x45, 1, 2), (0x46, 1, 1), (0x47, 1, 2),
   (0x48, 1, 1)] ++
  [(0x50, 1, 2), (0x51, 3, 2), (0x52, 1, 2), (0x53, 1, 1), (0x54, 1, 3), (0x55, 1, 2), (0x56, 1, 1), (0x57, 0, 1),
   (0x58, 1, 2), (0x59, 1, 1)] ++
  [(0x60, 0, 1), (0x61, 1, 1), (0x62, 1, 2), (0x63, 1, 2), (0x64, 1, 2), (0x65, 1, 2), (0x66, 1, 1), (0x67, 1, 2),
   (0x68, 1, 1)] ++
  [(0x70, 1, 1), (0x71, 1, 1), (0x72, 1, 0), (0x73, 1, 0), (0x74, 1, 0), (0x75, 1, 0), (0x76, 1, 1)]

/-- The four checks of 30_encoding.md R92 on a word, in their order, from the format table alone: the op, the
destinations and the sources of a legal command, or the check that fails first. -/
def checkWord (w : Word) : Except Illegal (Nat × List Reg × List Reg) :=
  let field (lo : Nat) : Reg := w.extractLsb' lo 4
  let op := (w.extractLsb' 24 8).toNat
  if w.extractLsb' 32 32 ≠ 0 then .error .highBits
  else
    match formatTable.find? fun row => row.1 = op with
    | none => .error .reservedOp
    | some (_, k, n) =>
      let dests := [field 20, field 16, field 12]
      let srcs := [field 8, field 4, field 0]
      if ∃ r ∈ dests.drop k ++ srcs.drop n, r ≠ 0 then .error .unusedField
      else if ¬ (dests.take k).Nodup then .error .equalDests
      else .ok (op, dests.take k, srcs.take n)

/-- The context a command needs is valid (30_encoding.md R94 (b), 70_reset_and_hazards.md R322); true for a command
that needs none. -/
def contextValid (i : Instr) (s : State) : Bool :=
  let op := i.opcode.toNat
  if op ∈ [0x11, 0x12, 0x14, 0x15, 0x16, 0x17, 0x18, 0x19, 0x1A] then s.matv
  else if op = 0x13 then s.kerv
  else if op = 0x32 then s.fkind ≠ 0
  else if op ∈ [0x41, 0x42, 0x43, 0x44, 0x45, 0x46, 0x47, 0x48, 0x71, 0x73, 0x75] then s.pmodv
  else if op ∈ [0x61, 0x62, 0x63, 0x64, 0x65, 0x66, 0x67, 0x68, 0x70, 0x72, 0x74] then s.imodv
  else true

/-- The non-zero codes a legal command of an op may complete with, as 60_exceptions.md R282 lists them, those marked
unreachable among them. -/
def possibleCodes (op : Nat) : List Nat :=
  match op with
  | 0x10 => [7]
  | 0x11 | 0x12 | 0x13 | 0x14 | 0x15 | 0x16 | 0x17 => [8, 6]
  | 0x18 | 0x19 => [8]
  | 0x1A => [8, 32]
  | 0x23 => [9]
  | 0x24 => [2]
  | 0x25 => [4, 5, 9]
  | 0x30 => [10]
  | 0x31 | 0x33 => [32, 33, 34, 35]
  | 0x32 => [8, 6]
  | 0x34 => [10, 11, 32, 33, 34, 35]
  | 0x35 | 0x36 => [10, 32, 33, 34, 35]
  | 0x40 => [7]
  | 0x41 | 0x42 | 0x43 | 0x44 | 0x48 => [8]
  | 0x45 | 0x46 => [8, 2, 3]
  | 0x47 => [8, 5, 2, 3]
  | 0x50 | 0x51 | 0x52 => [9]
  | 0x53 | 0x59 => [10]
  | 0x54 => [2, 10, 4]
  | 0x55 => [2, 10, 3]
  | 0x56 => [10, 9]
  | 0x57 => [10]
  | 0x58 => [10, 9]
  | 0x60 => [7]
  | 0x61 | 0x62 | 0x63 | 0x64 | 0x68 => [8]
  | 0x65 | 0x66 => [8, 2, 3]
  | 0x67 => [8, 5, 2, 3]
  | 0x70 => [8, 3, 11]
  | 0x71 => [8, 3, 11, 32, 33, 34, 35]
  | 0x72 => [8, 10]
  | 0x73 => [8, 10, 32, 33, 34, 35]
  | 0x74 => [8, 11]
  | 0x75 => [8, 11, 32, 33, 34, 35]
  | 0x76 => [10, 32, 33, 34, 35]
  | _ => []

/-- What HostRead answers at each index of the map 10_state.md R26, the index as a number; 0x1A to 0x1F read 0
(20_memory.md R67). -/
def windowMap (s : State) : List Word :=
  s.x.toList ++ [s.cmd, s.status, s.esticky, s.ecmd, s.pmod, s.imod, s.mdim, s.kdim, s.fstat, s.ftriv] ++
    List.replicate 6 0

/-! ## What a command may not look at -/

/-- The same outcome with a function applied to the next state. -/
def mapNext (g : State → State) : Out → Out
  | .next s => .next (g s)
  | .fault f => .fault f
  | .refused r => .refused r

/-- The state with the record of earlier outcomes erased: STATUS.code, ESTICKY and ECMD. -/
def State.forget (s : State) : State := { s with esticky := 0, ecmd := 0 }.setCode 0

/-! ## Mathematics the commands are held against -/

/-- The polynomial over GF(2) a number stands for: bit j is the coefficient of x^j (00_scope.md R13, 41_f2poly.md). -/
noncomputable def polyOf (a : Nat) : Polynomial (ZMod 2) :=
  ∑ j ∈ Finset.range (a.log2 + 1), if a.testBit j then Polynomial.X ^ j else 0

/-- A residue modulo the polynomial m: of lower degree, or 0 (43_f2polymod.md R190). -/
def Reduced (m r : Nat) : Prop := r = 0 ∨ (polyOf r).natDegree < (polyOf m).natDegree

/-- Two numbers are congruent modulo the polynomial m. -/
def PolyCongr (m : Nat) (p q : Polynomial (ZMod 2)) : Prop := polyOf m ∣ p - q

/-- The least exponent e at least 1 with a^e = 1 modulo the polynomial m (46_order.md R260). -/
def IsPolyOrder (m a e : Nat) : Prop := IsLeast {k | 1 ≤ k ∧ PolyCongr m (polyOf a ^ k) 1} e

/-- The units of F2[x]/(m) that the searches run over: 1 to 2^deg(m) - 1 (46_order.md R268). -/
def PolyUnit (m u : Nat) : Prop :=
  1 ≤ u ∧ u < 2 ^ (polyOf m).natDegree ∧ IsCoprime (polyOf u) (polyOf m)

/-- The number of residues modulo m that are coprime to m (42_f2polyfactor.md R168). -/
noncomputable def polyTotient (m : Nat) : Nat :=
  Nat.card {u : Nat | u < 2 ^ (polyOf m).natDegree ∧ IsCoprime (polyOf u) (polyOf m)}

/-- A list of pairs is the factorisation of f over GF(2): irreducible bases, strictly ascending, multiplicities at
least 1, and the product is f (42_f2polyfactor.md R171, 10_state.md R34). -/
def IsPolyFactors (f : Nat) (l : FacList) : Prop :=
  (l.map Prod.fst).Pairwise (· < ·) ∧ (∀ p ∈ l, Irreducible (polyOf p.1) ∧ 1 ≤ p.2) ∧
    (l.map fun p => polyOf p.1 ^ p.2).prod = polyOf f

/-- A list of pairs is the prime factorisation of n: prime bases, strictly ascending, multiplicities at least 1, and
the product is n (44_intarith.md R217). -/
def IsIntFactors (n : Nat) (l : FacList) : Prop :=
  (l.map Prod.fst).Pairwise (· < ·) ∧ (∀ p ∈ l, p.1.Prime ∧ 1 ≤ p.2) ∧ (l.map fun p => p.1 ^ p.2).prod = n

/-- FAC holds a list: entry i of the bank is pair i of the list (10_state.md R34). -/
def HoldsPairs (facb facm : Bank) (l : FacList) : Prop :=
  ∀ i, (h : i < l.length) → (bankRead facb i).toNat = l[i].1 ∧ (bankRead facm i).toNat = l[i].2

/-- The units of Z/mZ that the searches run over: 1 to m - 1 (46_order.md R268, 45_intmod.md R250). -/
def IntUnit (m u : Nat) : Prop := 1 ≤ u ∧ u < m ∧ Nat.Coprime u m

/-- The least exponent e at least 1 with a^e = 1 modulo m (46_order.md R260). -/
def IsIntOrder (m : Nat) (a : Int) (e : Nat) : Prop := IsLeast {k | 1 ≤ k ∧ a ^ k ≡ 1 [ZMOD m]} e

/-- Column l is the leader of a row: its lowest set bit (40_bitvector_bitmatrix.md R108). -/
def IsLeader (v l : Nat) : Prop := v.testBit l = true ∧ ∀ j, j < l → v.testBit j = false

/-- The sum over GF(2) of a list of rows. -/
def xorAll (rows : List Nat) : Nat := rows.foldr (· ^^^ ·) 0

/-- The row space over GF(2): the sums of some of the rows (40_bitvector_bitmatrix.md R111). -/
def rowSpace (rows : List Nat) : Set Nat := {v | ∃ sub, sub.Sublist rows ∧ xorAll sub = v}

/-- The reduced row echelon form of 40_bitvector_bitmatrix.md R111: the non-zero rows first, their leaders strictly
rising, each leader's column 0 in every other row. -/
def IsEchelon (rows : List Nat) : Prop :=
  (∀ i k, i < k → k < rows.length → rows.getD k 0 ≠ 0 →
    ∃ l l', IsLeader (rows.getD i 0) l ∧ IsLeader (rows.getD k 0) l' ∧ l < l') ∧
  ∀ i k l, i < rows.length → k < rows.length → i ≠ k → IsLeader (rows.getD i 0) l → (rows.getD k 0).testBit l = false

/-- A free column of a matrix of `nc` columns: one that no row of the echelon form has as its leader
(40_bitvector_bitmatrix.md R112). Those leaders are the leaders of the row space, which has the same echelon form (R111). -/
def IsFreeColumn (rows : List Nat) (nc c : Nat) : Prop := c < nc ∧ ¬ ∃ v ∈ rowSpace rows, IsLeader v c

/-- The number of set bits of a number below 2^64. -/
def bitCount (v : Nat) : Nat := ((List.range 64).filter fun j => v.testBit j).length

/-- M·v = 0 over GF(2): every row has an even number of set bits in common with v (40_bitvector_bitmatrix.md R117). -/
def InKernel (rows : List Nat) (v : Nat) : Prop := ∀ w ∈ rows, bitCount (w &&& v) % 2 = 0

/-- The rows MAT holds, each read through its width (10_state.md R33). -/
def State.matrix (s : State) : List Nat :=
  (List.range s.nrows).map fun i => (s.cell .mat i).toNat % 2 ^ s.ncols

/-- The vectors KER holds, each read through its width (10_state.md R35). -/
def State.basis (s : State) : List Nat :=
  (List.range s.krows).map fun i => (s.cell .ker i).toNat % 2 ^ s.kcols

end Sys2Proof.Machine
end

