-- ==== Sys2Proof/Certificates/Slice0/Obligations.lean ====
section
/-! DEFINITION. The statements about the machine, for the provers. A command that completes with its result ends in
`(… ).setCode 0` (60_exceptions.md R284); one that fails ends in `raise e s` (R283), which `RaiseRecords` spells out. A
next state given as a record update of the state before says also what the command leaves unchanged. -/

section
open Sys2Proof Sys2Proof.Machine

/-! ## Encoding -/

/-- Decoding the encoding of a well-formed command gives it back, and a word that decodes is the encoding of the one
command it decodes to, which is well formed (30_encoding.md R81 to R85, R92). -/
def Obligations.DecodeAndEncodeAgree : Prop :=
  (∀ i : Instr, i.Wf → decode (encode i) = .ok i) ∧
  ∀ (w : Word) (i : Instr), decode w = .ok i → i.Wf ∧ encode i = w

/-- The decoder makes the four checks of R92 in their order, with the formats of the opcode map R83, and reads the
operands from the fields of R81. -/
def Obligations.DecodeMakesTheChecks : Prop :=
  ∀ w : Word, (decode w).map (fun i => (i.opcode.toNat, i.dests, i.srcs)) = checkWord w

/-- Words the spec writes out decode to the commands it names, and four words of its kinds of illegal word do not
(R84 to R87, R90). -/
def Obligations.SampleWordsDecode : Prop :=
  decode 0x10000120 = .ok (.mnew 1 2) ∧ decode 0x18000000 = .ok .mref ∧
  decode 0x27123450 = .ok (.pxgcd 1 2 3 4 5) ∧ decode 0x23300120 = .ok (.pmul 3 1 2) ∧
  decode 0x32230100 = .ok (.fget 2 3 1) ∧ decode 0x47300120 = .ok (.pmpow 3 1 2) ∧
  decode 0x54400123 = .ok (.imodexp 4 1 2 3) ∧ decode 0x60000100 = .ok (.imsetmod 1) ∧
  decode 0x72100000 = .ok (.immaxord 1) ∧
  decode 0x123300120 = .error .highBits ∧ decode 0 = .error .reservedOp ∧
  decode 0x18000001 = .error .unusedField ∧ decode 0x24330120 = .error .equalDests

/-! ## The step -/

/-- A step that serves a write of a legal command to CMD stores the word in CMD and is the command (10_state.md R27,
30_encoding.md R94): nothing else happens around it but that the transaction is taken from the queue. -/
def Obligations.StepRunsTheCommand : Prop :=
  ∀ (s : State) (w : Word) (i : Instr) (rest : List HostOp),
    s.resetLine = false → s.search = none → s.fatal = false → s.hostq = .write cmdIndex w :: rest →
    decode w = .ok i → step s = exec i { s with hostq := rest, cmd := w }

/-- A step that serves a write of an illegal word to CMD raises E_ILLEGAL: code 1, ESTICKY bit 1, CMD and ECMD the
whole word, and nothing else changes (30_encoding.md R84 to R87, 60_exceptions.md R281). -/
def Obligations.IllegalWordRaises : Prop :=
  ∀ (s : State) (w : Word) (e : Illegal) (rest : List HostOp),
    s.resetLine = false → s.search = none → s.fatal = false → s.hostq = .write cmdIndex w :: rest →
    decode w = .error e →
    step s = .next { s with
      hostq := rest
      cmd := w
      ecmd := w
      esticky := s.esticky ||| 2
      status := (s.status &&& ~~~0xFF) ||| 1 }

/-- What taking a recoverable error and taking a fatal condition write, and that they write nothing else
(60_exceptions.md R283, R290). -/
def Obligations.RaiseRecords : Prop :=
  (∀ (e : ErrCode) (s : State), raise e s = { s with
      status := (s.status &&& ~~~0xFF) ||| BitVec.ofNat 64 e.num
      esticky := s.esticky ||| BitVec.twoPow 64 e.num
      ecmd := s.cmd }) ∧
  ∀ (f : FatalCode) (s : State), fatal f s = { s with
      status := (s.status &&& ~~~0x1FF) ||| 0x100 ||| BitVec.ofNat 64 f.num
      esticky := s.esticky ||| BitVec.twoPow 64 f.num
      ecmd := s.cmd }

/-- The registers of the reset state are 0 (10_state.md R47), and when reset is asserted, at any time, the next state has
them so and the block is idle, whatever was going on (70_reset_and_hazards.md R320). Of the bank cells, which the spec
leaves unspecified, it says nothing. That the reset input is a field a step looks at first, and that an idle block is one
with no search in progress, are the model's choices (log entries 5 and 7). -/
def Obligations.ResetValues : Prop :=
  let allZero := fun t : State =>
    (∀ r : Reg, t.get r = 0) ∧ t.cmd = 0 ∧ t.status = 0 ∧ t.esticky = 0 ∧ t.ecmd = 0 ∧ t.pmod = 0 ∧ t.imod = 0 ∧
      t.mdim = 0 ∧ t.kdim = 0 ∧ t.fstat = 0 ∧ t.ftriv = 0 ∧ t.search = none
  allZero State.reset ∧ ∀ s : State, s.resetLine = true → ∃ t, step s = .next t ∧ allZero t

/-- A HostRead answers the word the map of the window gives, in the fatal state too, and changes nothing
(10_state.md R26, 20_memory.md R66, R67, R75). -/
def Obligations.HostReadAnswers : Prop :=
  ∀ (s : State) (w : WinIndex) (rest : List HostOp),
    s.resetLine = false → s.search = none → s.hostq = .read w :: rest →
    step s = .next { s with hostq := rest, reply := (windowMap s).getD w.toNat 0 }

/-- A HostWrite outside the fatal state: to x[i] it stores the word; to ESTICKY it clears the bits written as 1; to
a read-only or reserved index it changes nothing (20_memory.md R66 to R68, 10_state.md R29). -/
def Obligations.HostWriteStores : Prop :=
  ∀ (s : State) (w : WinIndex) (v : Word) (rest : List HostOp),
    s.resetLine = false → s.search = none → s.fatal = false → s.hostq = .write w v :: rest →
    (∀ h : w.toNat < 16, step s = .next { s with hostq := rest, x := s.x.set w.toNat v h }) ∧
    (w = 0x12 → step s = .next { s with hostq := rest, esticky := s.esticky &&& ~~~v }) ∧
    (16 ≤ w.toNat → w ≠ 0x10 → w ≠ 0x12 → step s = .next { s with hostq := rest })

/-- In the fatal state every HostWrite is ignored, and every HostRead still returns the current value (20_memory.md
R75). -/
def Obligations.FatalStateIgnoresWrites : Prop :=
  ∀ (s : State) (w : WinIndex) (v : Word) (rest : List HostOp),
    s.resetLine = false → s.search = none → s.fatal = true →
    (s.hostq = .write w v :: rest → step s = .next { s with hostq := rest }) ∧
    (s.hostq = .read w :: rest → step s = .next { s with hostq := rest, reply := (windowMap s).getD w.toNat 0 })

/-- No operand register is hardwired: each reads back the word written to it, and the others keep theirs (10_state.md
R21, R22). -/
def Obligations.RegistersHoldWhatIsWritten : Prop :=
  ∀ (s : State) (r r' : Reg) (v : Word), (s.set r v).get r' = if r' = r then v else s.get r'

/-! ## The whole machine -/

/-- The reset state is sound. That its banks are empty and no search is in progress are the model's choices (log entries
1 and 7). -/
def Obligations.ResetIsSound : Prop :=
  Inv State.reset ∧ FacOk State.reset

/-- Every step keeps the invariants the spec gives the state (10_state.md R28, R29, R31 to R35). -/
def Obligations.StepKeepsSoundness : Prop :=
  ∀ s t : State, Inv s → step s = .next t → Inv t

/-- Every step keeps the held factor list in order: bases strictly ascending, multiplicities 1 to 63 (10_state.md
R34). -/
def Obligations.StepKeepsFactorList : Prop :=
  ∀ s t : State, Inv s → FacOk s → step s = .next t → FacOk t

/-- From a sound state every step has a next state: no command reaches a bank cell that does not exist (10_state.md
R34, 20_memory.md R61), in particular no factor list outgrows FAC. -/
def Obligations.SoundStatesStep : Prop :=
  ∀ s : State, Inv s → ∃ t, step s = .next t

/-- The fatal state is entered from no sound state: none of the internal checks of kernel extraction and of
Berlekamp's algorithm can fail (60_exceptions.md R289). -/
def Obligations.FatalStateUnreachable : Prop :=
  ∀ s t : State, Inv s → s.fatal = false → step s = .next t → t.fatal = false

/-- A command never changes a register that is not one of its destinations, and a command that completes with a
non-zero code changes no register (10_state.md R23, 60_exceptions.md R283). -/
def Obligations.OnlyDestinationsChange : Prop :=
  ∀ (i : Instr) (s t : State), exec i s = .next t →
    (∀ r : Reg, r ∉ i.dests → t.get r = s.get r) ∧ (t.code ≠ 0 → t.x = s.x)

/-- How every command ends (60_exceptions.md R280, R283, R284, R290, R294): with code 0, ESTICKY and ECMD kept; with
a recoverable error taken in the state before it; with the error of a failed construction, that context no longer
valid; with a fatal condition taken in the state before it; or, PRANDIRR only, still searching, the supplied draws
used up (70_reset_and_hazards.md R325; log entry 7). -/
def Obligations.HowCommandsEnd : Prop :=
  ∀ (i : Instr) (s t : State), exec i s = .next t →
    (t.code = 0 ∧ t.esticky = s.esticky ∧ t.ecmd = s.ecmd) ∨
    (∃ e, t = raise e s) ∨
    (i.opcode = 0x10 ∧ t = raise .construct (s.setMatv false)) ∨
    (i.opcode = 0x40 ∧ t = raise .construct (s.setPmodv false)) ∨
    (i.opcode = 0x60 ∧ t = raise .construct (s.setImodv false)) ∨
    (∃ f, (i.opcode ≠ 0x35 ∧ t = fatal f s) ∨
      (i.opcode = 0x35 ∧ t = fatal f { s with rnd := t.rnd, search := none })) ∨
    (i.opcode = 0x35 ∧ t.search ≠ none ∧ t = { s with rnd := [], search := t.search })

/-- Which command can change which context and bank: PMOD only PMSETMOD, IMOD only IMSETMOD, MAT and MDIM only MNEW,
MSETROW, BVSET, BVTGL, MREF and BKMAT, KER and KDIM only MKER, FAC, FSTAT and FTRIV only PFACTOR and IFACTOR
(10_state.md R31 to R35). CMD and the inputs are changed by none; draws are taken only by PRANDIRR (R46). -/
def Obligations.ContextsHaveOwners : Prop :=
  ∀ (i : Instr) (s t : State), exec i s = .next t →
    (i.opcode ≠ 0x40 → t.pmod = s.pmod ∧ t.pmodv = s.pmodv) ∧
    (i.opcode ≠ 0x60 → t.imod = s.imod ∧ t.imodv = s.imodv) ∧
    (i.opcode ∉ [0x10, 0x11, 0x15, 0x16, 0x18, 0x30] → t.mat = s.mat ∧ t.mdim = s.mdim ∧ t.matv = s.matv) ∧
    (i.opcode ≠ 0x1A → t.ker = s.ker ∧ t.kdim = s.kdim ∧ t.kerv = s.kerv) ∧
    (i.opcode ∉ [0x31, 0x57] → t.facb = s.facb ∧ t.facm = s.facm ∧ t.fstat = s.fstat ∧ t.ftriv = s.ftriv) ∧
    (i.opcode ≠ 0x35 → t.rnd = s.rnd ∧ t.search = s.search) ∧
    t.cmd = s.cmd ∧ t.hostq = s.hostq ∧ t.reply = s.reply ∧ t.resetLine = s.resetLine ∧ t.drawn = s.drawn

/-- A command completes with code 0 or with a code R282 lists for it; a PRANDIRR that goes on searching leaves the
code (60_exceptions.md R280, R282; log entry 7). -/
def Obligations.CodesAreThoseListed : Prop :=
  ∀ (i : Instr) (s t : State), exec i s = .next t →
    t.code = 0 ∨ t.code ∈ possibleCodes i.opcode.toNat ∨ (i.opcode = 0x35 ∧ t.search ≠ none ∧ t.code = s.code)

/-- A command whose context is not valid raises E_NOCTX and changes nothing else, whatever its operands are
(70_reset_and_hazards.md R322, 60_exceptions.md R285, R293). -/
def Obligations.NoContextRaises : Prop :=
  ∀ (i : Instr) (s : State), contextValid i s = false → exec i s = .next (raise .noctx s)

/-- No command reads the outcome of an earlier one: from a state and from that state with STATUS.code, ESTICKY and
ECMD erased, a command gives the same outcome but for these three (10_state.md R25, R29). -/
def Obligations.EarlierOutcomesAreNotRead : Prop :=
  ∀ (i : Instr) (s : State), mapNext State.forget (exec i s) = mapNext State.forget (exec i s.forget)

/-- A command reads no operand register but its sources (10_state.md R23, 70_reset_and_hazards.md R326): another word in
a register that is no source gives the same outcome. Where the register is a destination and the command completes with
code 0 the word is gone, the next state being the same; everywhere else it is still there: in a register that is no
destination, after a command that completes with another code, and while a PRANDIRR goes on searching (log entry 7). -/
def Obligations.OnlySourcesAreRead : Prop :=
  ∀ (i : Instr) (s : State) (r : Reg) (v : Word), r ∉ i.srcs →
    exec i (s.set r v) =
      mapNext (fun t => if r ∈ i.dests ∧ t.code = 0 ∧ (i.opcode = 0x35 → t.search = none) then t else t.set r v)
        (exec i s)

/-! ## BitVector and BitMatrix -/

/-- MNEW (40_bitvector_bitmatrix.md R101): a dimension outside 1 to 64 raises E_CONSTRUCT and clears matv; otherwise
the dimensions are set, the rows are 0, and matv is 1. That the cells from NROWS on keep what they held is the model's
choice (log entry 15). -/
def Obligations.NewMatrixIsZero : Prop :=
  ∀ (s : State) (rs1 rs2 : Reg), Memory.wf s →
    let nr := s.s64 rs1
    let nc := s.s64 rs2
    (nr < 1 ∨ nc < 1 ∨ 64 < nr ∨ 64 < nc → exec (.mnew rs1 rs2) s = .next (raise .construct (s.setMatv false))) ∧
    (1 ≤ nr → 1 ≤ nc → nr ≤ 64 → nc ≤ 64 →
      ∃ m, exec (.mnew rs1 rs2) s =
          .next (({ s with mdim := dimWord nr.toNat nc.toNat, mat := m }.setMatv true).setCode 0) ∧
        ∀ k, bankRead m k = if k < nr.toNat then 0 else bankRead s.mat k)

/-- MSETROW, MGETROW and BVLEAD on a valid matrix (R102, R103, R109): a row index outside 0 to NROWS - 1 raises E_INDEX;
otherwise MSETROW stores the low NCOLS bits in that row and in no other, MGETROW reads them, and BVLEAD gives the
lowest set bit, or the word of -1 for a zero row. What MSETROW leaves in the bits of the row from NCOLS on and in the
cells from NROWS on is the model's choice (log entry 15). -/
def Obligations.RowCommands : Prop :=
  ∀ (s : State) (rd rs1 rs2 : Reg), Inv s → s.matv = true →
    let i := s.s64 rs1
    let row := (s.cell .mat i.toNat).toNat % 2 ^ s.ncols
    (i < 0 ∨ (s.nrows : Int) ≤ i →
      exec (.msetrow rs1 rs2) s = .next (raise .index s) ∧ exec (.mgetrow rd rs1) s = .next (raise .index s) ∧
      exec (.bvlead rd rs1) s = .next (raise .index s)) ∧
    (0 ≤ i → i < (s.nrows : Int) →
      (∃ m, exec (.msetrow rs1 rs2) s = .next ({ s with mat := m }.setCode 0) ∧
        ∀ k, (bankRead m k).toNat = if k = i.toNat then s.u64 rs2 % 2 ^ s.ncols else (bankRead s.mat k).toNat) ∧
      exec (.mgetrow rd rs1) s = .next ((s.setNat rd row).setCode 0) ∧
      (row = 0 → exec (.bvlead rd rs1) s = .next ((s.set rd (BitVec.allOnes 64)).setCode 0)) ∧
      (row ≠ 0 → ∃ l, IsLeader row l ∧ exec (.bvlead rd rs1) s = .next ((s.setNat rd l).setCode 0)))

/-- KGETROW and FGET (R104, 42_f2polyfactor.md R174): an index outside the bound raises E_INDEX; otherwise the cell,
or the two cells, of that index. -/
def Obligations.ResultBankReads : Prop :=
  ∀ (s : State) (rd rd2 rs1 : Reg), Inv s →
    let i := s.s64 rs1
    (s.kerv = true →
      (i < 0 ∨ (s.krows : Int) ≤ i → exec (.kgetrow rd rs1) s = .next (raise .index s)) ∧
      (0 ≤ i → i < (s.krows : Int) →
        exec (.kgetrow rd rs1) s =
          .next ((s.setNat rd ((s.cell .ker i.toNat).toNat % 2 ^ s.kcols)).setCode 0))) ∧
    (s.fkind ≠ 0 →
      (i < 0 ∨ (s.fcount : Int) ≤ i → exec (.fget rd rd2 rs1) s = .next (raise .index s)) ∧
      (0 ≤ i → i < (s.fcount : Int) →
        exec (.fget rd rd2 rs1) s =
          .next (((s.set rd (s.cell .facb i.toNat)).set rd2 (s.cell .facm i.toNat)).setCode 0)))

/-- BVGET, BVSET and BVTGL on a valid matrix (R105 to R107): a row index or a bit index outside its bound raises
E_INDEX; otherwise BVGET gives the bit, BVSET makes it 1 and BVTGL turns it over, in that row and nowhere else. What is
left in the bits of the row from NCOLS on and in the cells from NROWS on is the model's choice (log entry 15). -/
def Obligations.BitCommands : Prop :=
  ∀ (s : State) (rd rs1 rs2 : Reg), Inv s → s.matv = true →
    let i := s.s64 rs1
    let j := s.s64 rs2
    let row := (s.cell .mat i.toNat).toNat % 2 ^ s.ncols
    (i < 0 ∨ (s.nrows : Int) ≤ i ∨ j < 0 ∨ (s.ncols : Int) ≤ j →
      exec (.bvget rd rs1 rs2) s = .next (raise .index s) ∧ exec (.bvset rs1 rs2) s = .next (raise .index s) ∧
      exec (.bvtgl rs1 rs2) s = .next (raise .index s)) ∧
    (0 ≤ i → i < (s.nrows : Int) → 0 ≤ j → j < (s.ncols : Int) →
      exec (.bvget rd rs1 rs2) s = .next ((s.setNat rd (if row.testBit j.toNat then 1 else 0)).setCode 0) ∧
      (∃ m, exec (.bvset rs1 rs2) s = .next ({ s with mat := m }.setCode 0) ∧
        (∀ k, k ≠ i.toNat → bankRead m k = bankRead s.mat k) ∧
        ∀ b, (bankRead m i.toNat).getLsbD b = (b = j.toNat || row.testBit b)) ∧
      (∃ m, exec (.bvtgl rs1 rs2) s = .next ({ s with mat := m }.setCode 0) ∧
        (∀ k, k ≠ i.toNat → bankRead m k = bankRead s.mat k) ∧
        ∀ b, (bankRead m i.toNat).getLsbD b = if b = j.toNat then !row.testBit b else row.testBit b))

/-- MREF on a valid matrix (R110, R111, R114): the rows become the reduced row echelon form of the same row space; the
cells beyond the matrix, the dimensions and everything else stay. That the cells from NROWS on stay is the model's choice
(log entry 15). -/
def Obligations.EchelonFormInPlace : Prop :=
  ∀ s : State, Inv s → s.matv = true →
    ∃ m, exec .mref s = .next ({ s with mat := m }.setCode 0) ∧
      IsEchelon { s with mat := m }.matrix ∧ rowSpace { s with mat := m }.matrix = rowSpace s.matrix ∧
      ∀ k, s.nrows ≤ k → bankRead m k = bankRead s.mat k

/-- MRANK on a valid matrix (R113, R115): the dimension of the row space over GF(2), that is, the r for which it has
2^r elements; MAT stays. -/
def Obligations.RankOfRowSpace : Prop :=
  ∀ (s : State) (rd : Reg), Inv s → s.matv = true →
    ∃ r, (rowSpace s.matrix).ncard = 2 ^ r ∧ exec (.mrank rd) s = .next ((s.setNat rd r).setCode 0)

/-- MKER on a valid matrix (R112, R116, R117): KER gets NCOLS - rank vectors of the width of the matrix, which span
exactly the vectors v with M·v = 0 and are linearly independent; MAT stays. The vectors and their order are fixed: vector
t has a 1 at the t-th smallest free column and a 0 at every other free column. That the cells of KER from KROWS on keep
what they held is the model's choice (log entry 15). -/
def Obligations.KernelBasisFound : Prop :=
  ∀ s : State, Inv s → s.matv = true →
    ∃ m r, (rowSpace s.matrix).ncard = 2 ^ r ∧ r ≤ s.ncols ∧
      exec .mker s =
        .next (({ s with kdim := dimWord (s.ncols - r) s.ncols, ker := m }.setKerv true).setCode 0) ∧
      (let basis := (List.range (s.ncols - r)).map fun k => (bankRead m k).toNat
       (∀ v, v ∈ rowSpace basis ↔ v < 2 ^ s.ncols ∧ InKernel s.matrix v) ∧
       (rowSpace basis).ncard = 2 ^ (s.ncols - r)) ∧
      (∃ free : List Nat, free.Pairwise (· < ·) ∧ (∀ c, c ∈ free ↔ IsFreeColumn s.matrix s.ncols c) ∧
        free.length = s.ncols - r ∧
        ∀ t u, (ht : t < free.length) → (hu : u < free.length) →
          ((bankRead m t).toNat.testBit free[u] = true ↔ u = t)) ∧
      ∀ k, s.ncols - r ≤ k → bankRead m k = bankRead s.ker k

/-! ## F2Poly -/

/-- PDEG, PADD, PSUB and PDERIV compute the degree (0 for the zero polynomial), the sum, the difference and the formal
derivative in F2[x] (41_f2poly.md R130, R131, R136, R140 to R142, R148). -/
def Obligations.PolyBasics : Prop :=
  ∀ (s : State) (rd rs1 rs2 : Reg),
    let a := s.u64 rs1
    let b := s.u64 rs2
    exec (.pdeg rd rs1) s = .next ((s.setNat rd (polyOf a).natDegree).setCode 0) ∧
    (∃ c < 2 ^ 64, polyOf c = polyOf a + polyOf b ∧ exec (.padd rd rs1 rs2) s = .next ((s.setNat rd c).setCode 0)) ∧
    (∃ c < 2 ^ 64, polyOf c = polyOf a - polyOf b ∧ exec (.psub rd rs1 rs2) s = .next ((s.setNat rd c).setCode 0)) ∧
    (∃ c < 2 ^ 64, polyOf c = Polynomial.derivative (polyOf a) ∧
      exec (.pderiv rd rs1) s = .next ((s.setNat rd c).setCode 0))

/-- PMUL (R132, R143): the exact product where its degree is at most 63, else E_OVERFLOW. -/
def Obligations.PolyProduct : Prop :=
  ∀ (s : State) (rd rs1 rs2 : Reg),
    let a := s.u64 rs1
    let b := s.u64 rs2
    (a = 0 ∨ b = 0 ∨ deg a + deg b ≤ 63 →
      ∃ c < 2 ^ 64, polyOf c = polyOf a * polyOf b ∧ exec (.pmul rd rs1 rs2) s = .next ((s.setNat rd c).setCode 0)) ∧
    (a ≠ 0 → b ≠ 0 → 63 < deg a + deg b → exec (.pmul rd rs1 rs2) s = .next (raise .overflow s))

/-- PQUOREM (R133, R144): E_DIVZERO for a zero divisor; else the quotient and the remainder of lower degree than the
divisor, or 0. -/
def Obligations.PolyDivision : Prop :=
  ∀ (s : State) (rd rd2 rs1 rs2 : Reg),
    let a := s.u64 rs1
    let b := s.u64 rs2
    (b = 0 → exec (.pquorem rd rd2 rs1 rs2) s = .next (raise .divzero s)) ∧
    (b ≠ 0 → ∃ q < 2 ^ 64, ∃ r < 2 ^ 64, polyOf a = polyOf q * polyOf b + polyOf r ∧ Reduced b r ∧
      exec (.pquorem rd rd2 rs1 rs2) s = .next (((s.setNat rd q).setNat rd2 r).setCode 0))

/-- PPOW (R138, R145): E_NEGEXP for a negative exponent, E_ZEROZERO for 0 to the 0, E_OVERFLOW where the power has a
degree above 63, else the exact power. -/
def Obligations.PolyPower : Prop :=
  ∀ (s : State) (rd rs1 rs2 : Reg),
    let a := s.u64 rs1
    let e := s.s64 rs2
    (e < 0 → exec (.ppow rd rs1 rs2) s = .next (raise .negexp s)) ∧
    (a = 0 → e = 0 → exec (.ppow rd rs1 rs2) s = .next (raise .zerozero s)) ∧
    (0 ≤ e → 1 < a → 63 < e * (deg a : Int) → exec (.ppow rd rs1 rs2) s = .next (raise .overflow s)) ∧
    (0 ≤ e → (a ≠ 0 ∨ e ≠ 0) → (a ≤ 1 ∨ e * (deg a : Int) ≤ 63) →
      ∃ c < 2 ^ 64, polyOf c = polyOf a ^ e.toNat ∧ exec (.ppow rd rs1 rs2) s = .next ((s.setNat rd c).setCode 0))

/-- PGCD and PXGCD (R134, R135, R146, R147, R150): a common divisor g that every common divisor divides, and for PXGCD
two words u, v with g = u·a + v·b. The pair is the one of the three-row iteration R135: the stated one where an operand
is 0 or the operands are equal, and otherwise the only pair with deg u < deg b - deg g and deg v < deg a - deg g, the
zero polynomial being below every degree. -/
def Obligations.PolyGcds : Prop :=
  ∀ (s : State) (rd rd2 rd3 rs1 rs2 : Reg),
    let a := s.u64 rs1
    let b := s.u64 rs2
    ∃ g < 2 ^ 64, ∃ u < 2 ^ 64, ∃ v < 2 ^ 64, polyOf g ∣ polyOf a ∧ polyOf g ∣ polyOf b ∧
      (∀ d, d ∣ polyOf a → d ∣ polyOf b → d ∣ polyOf g) ∧
      polyOf g = polyOf u * polyOf a + polyOf v * polyOf b ∧
      (b = 0 → u = 1 ∧ v = 0) ∧ (b ≠ 0 → a = 0 ∨ a = b → u = 0 ∧ v = 1) ∧
      (a ≠ 0 → b ≠ 0 → a ≠ b →
        (polyOf u).degree + (polyOf g).degree < (polyOf b).degree ∧
        (polyOf v).degree + (polyOf g).degree < (polyOf a).degree) ∧
      exec (.pgcd rd rs1 rs2) s = .next ((s.setNat rd g).setCode 0) ∧
      exec (.pxgcd rd rd2 rd3 rs1 rs2) s = .next ((((s.setNat rd g).setNat rd2 u).setNat rd3 v).setCode 0)

/-- PSQRT (R137, R149): the root and 1 where the polynomial is a square in F2[x], else 0 and 0. -/
def Obligations.PolySquareRoot : Prop :=
  ∀ (s : State) (rd rd2 rs1 : Reg),
    let a := s.u64 rs1
    (∀ r, polyOf r ^ 2 = polyOf a →
      exec (.psqrt rd rd2 rs1) s = .next (((s.setNat rd r).setNat rd2 1).setCode 0)) ∧
    ((∀ r, polyOf r ^ 2 ≠ polyOf a) →
      exec (.psqrt rd rd2 rs1) s = .next (((s.setNat rd 0).setNat rd2 0).setCode 0))

/-! ## F2PolyFactor -/

/-- BKMAT (42_f2polyfactor.md R161, R172): E_UNDEF for a degree of 0; else MAT is the n by n matrix, n the degree of f,
of the map h -> h^2 + h modulo f: row r of the matrix has with h an odd number of set bits in common exactly where
the coefficient of x^r in the image is 1. That the cells of MAT from n on keep what they held is the model's choice (log
entry 15). -/
def Obligations.BerlekampMatrix : Prop :=
  ∀ (s : State) (rs1 : Reg), Memory.wf s →
    let f := s.u64 rs1
    let n := deg f
    (f < 2 → exec (.bkmat rs1) s = .next (raise .undef s)) ∧
    (2 ≤ f → ∃ m,
      exec (.bkmat rs1) s = .next (({ s with mdim := dimWord n n, mat := m }.setMatv true).setCode 0) ∧
      (∀ r < n, (bankRead m r).toNat < 2 ^ n) ∧
      (∀ r < n, ∀ h < 2 ^ n, (bitCount ((bankRead m r).toNat &&& h) : ZMod 2) =
        ((polyOf h ^ 2 + polyOf h) % polyOf f).coeff r) ∧
      ∀ k, n ≤ k → bankRead m k = bankRead s.mat k)

/-- PFACTOR (R164, R171, R173): a polynomial of degree 0 is its own trivial factor, with an empty list; any other has
no trivial factor, and FAC holds its factorisation over GF(2). That the entries of FAC stay where the list is empty is
the model's choice (log entry 15). -/
def Obligations.PolyFactorisation : Prop :=
  ∀ (s : State) (rs1 : Reg), Memory.wf s →
    let f := s.u64 rs1
    (f < 2 → exec (.pfactor rs1) s =
      .next ({ s with fstat := fstatWord 0 1 true, ftriv := s.get rs1 }.setCode 0)) ∧
    (2 ≤ f → ∃ l mb mm, IsPolyFactors f l ∧ l.length ≤ 15 ∧ HoldsPairs mb mm l ∧
      exec (.pfactor rs1) s =
        .next ({ s with fstat := fstatWord l.length 1 false, ftriv := 0, facb := mb, facm := mm }.setCode 0))

/-- PIRR and PLOWIRR (R165, R166, R175, R176): irreducibility over GF(2) as 1 or 0; and for a degree of 1 to 63 the
least irreducible polynomial of that degree with constant term 1, E_UNDEF for any other degree. -/
def Obligations.Irreducibility : Prop :=
  ∀ (s : State) (rd rs1 : Reg),
    (∃ b : Bool, (b = true ↔ Irreducible (polyOf (s.u64 rs1))) ∧
      exec (.pirr rd rs1) s = .next ((s.setNat rd b.toNat).setCode 0)) ∧
    (s.s64 rs1 < 1 ∨ 63 < s.s64 rs1 → exec (.plowirr rd rs1) s = .next (raise .undef s)) ∧
    (1 ≤ s.s64 rs1 → s.s64 rs1 ≤ 63 →
      ∃ c < 2 ^ 64,
        IsLeast {p | p % 2 = 1 ∧ ((polyOf p).natDegree : Int) = s.s64 rs1 ∧ Irreducible (polyOf p)} c ∧
        exec (.plowirr rd rs1) s = .next ((s.setNat rd c).setCode 0))

/-- PRANDIRR (R167, R177): E_UNDEF for a degree outside 1 to 63; else, over the draws supplied, the candidate of the
first draw whose candidate is irreducible, the draws after it left; where no supplied draw gives one it does not
complete, and from then on a step serves no transaction but takes one more draw, and completes where its candidate
is irreducible (70_reset_and_hazards.md R325; log entries 6 and 7). -/
def Obligations.RandomIrreducible : Prop :=
  let cand := fun (d : Nat) (w : Word) => w.toNat % 2 ^ d ||| (1 <<< d) ||| 1
  (∀ (s : State) (rd rs1 : Reg),
    let d := s.s64 rs1
    (d < 1 ∨ 63 < d → exec (.prandirr rd rs1) s = .next (raise .undef s)) ∧
    (1 ≤ d → d ≤ 63 →
      (∀ ws w rest, s.rnd = ws ++ w :: rest → (∀ v ∈ ws, irr (cand d.toNat v) = .ok false) →
        irr (cand d.toNat w) = .ok true →
        exec (.prandirr rd rs1) s =
          .next (({ s with rnd := rest, search := none }.setNat rd (cand d.toNat w)).setCode 0)) ∧
      ((∀ v ∈ s.rnd, irr (cand d.toNat v) = .ok false) →
        exec (.prandirr rd rs1) s = .next { s with rnd := [], search := some ⟨rd, d.toNat⟩ }))) ∧
  ∀ (s : State) (j : Search), s.resetLine = false → s.search = some j →
    let c := cand j.degree s.draw.1
    (irr c = .ok true → step s = .next (({ s.draw.2 with search := none }.setNat j.rd c).setCode 0)) ∧
    (irr c = .ok false → step s = .next s.draw.2)

/-- PTOTIENT (R168, R178): E_UNDEF for 0; else the number of residues that are coprime to the polynomial; FAC stays. -/
def Obligations.PolyTotientCounts : Prop :=
  ∀ (s : State) (rd rs1 : Reg),
    (s.u64 rs1 = 0 → exec (.ptotient rd rs1) s = .next (raise .undef s)) ∧
    (s.u64 rs1 ≠ 0 → exec (.ptotient rd rs1) s = .next ((s.setNat rd (polyTotient (s.u64 rs1))).setCode 0))

/-! ## F2PolyMod -/

/-- PMSETMOD and IMSETMOD (43_f2polymod.md R193, 45_intmod.md R241): a zero polynomial, a modulus not above 0, raises
E_CONSTRUCT, clears the context and leaves the modulus; any other becomes the modulus and the context is valid. -/
def Obligations.SetModulus : Prop :=
  ∀ (s : State) (rs1 : Reg),
    (s.get rs1 = 0 → exec (.pmsetmod rs1) s = .next (raise .construct (s.setPmodv false))) ∧
    (s.get rs1 ≠ 0 → exec (.pmsetmod rs1) s = .next (({ s with pmod := s.get rs1 }.setPmodv true).setCode 0)) ∧
    (s.s64 rs1 ≤ 0 → exec (.imsetmod rs1) s = .next (raise .construct (s.setImodv false))) ∧
    (0 < s.s64 rs1 → exec (.imsetmod rs1) s = .next (({ s with imod := s.get rs1 }.setImodv true).setCode 0))

/-- PMRED, PMADD, PMSUB and PMMUL in a valid ring (R190, R191, R194 to R197): the reduced residue of the operand, the
sum, the difference and the product, for any words as operands. -/
def Obligations.PolyRing : Prop :=
  ∀ (s : State) (rd rs1 rs2 : Reg), s.pmodv = true → s.pmod ≠ 0 →
    let m := s.pmod.toNat
    let a := polyOf (s.u64 rs1)
    let b := polyOf (s.u64 rs2)
    (∃ r < 2 ^ 64, Reduced m r ∧ PolyCongr m (polyOf r) a ∧
      exec (.pmred rd rs1) s = .next ((s.setNat rd r).setCode 0)) ∧
    (∃ r < 2 ^ 64, Reduced m r ∧ PolyCongr m (polyOf r) (a + b) ∧
      exec (.pmadd rd rs1 rs2) s = .next ((s.setNat rd r).setCode 0)) ∧
    (∃ r < 2 ^ 64, Reduced m r ∧ PolyCongr m (polyOf r) (a - b) ∧
      exec (.pmsub rd rs1 rs2) s = .next ((s.setNat rd r).setCode 0)) ∧
    (∃ r < 2 ^ 64, Reduced m r ∧ PolyCongr m (polyOf r) (a * b) ∧
      exec (.pmmul rd rs1 rs2) s = .next ((s.setNat rd r).setCode 0))

/-- PMRECIP and PMDIV in a valid ring (R192, R198, R199, R202): for an operand that is a unit, its inverse, and the
residue whose product with it is the dividend; else E_DIVZERO where it reduces to 0 and E_NOTINV where it does not. -/
def Obligations.PolyInverse : Prop :=
  ∀ (s : State) (rd rs1 rs2 : Reg), s.pmodv = true → s.pmod ≠ 0 →
    let m := s.pmod.toNat
    let a := s.u64 rs1
    let b := s.u64 rs2
    (pgcd b m = 1 →
      (∃ r < 2 ^ 64, Reduced m r ∧ PolyCongr m (polyOf r * polyOf b) 1 ∧
        exec (.pmrecip rd rs2) s = .next ((s.setNat rd r).setCode 0)) ∧
      (∃ r < 2 ^ 64, Reduced m r ∧ PolyCongr m (polyOf r * polyOf b) (polyOf a) ∧
        exec (.pmdiv rd rs1 rs2) s = .next ((s.setNat rd r).setCode 0))) ∧
    (pgcd b m ≠ 1 → pmodp b m = 0 →
      exec (.pmrecip rd rs2) s = .next (raise .divzero s) ∧ exec (.pmdiv rd rs1 rs2) s = .next (raise .divzero s)) ∧
    (pgcd b m ≠ 1 → pmodp b m ≠ 0 →
      exec (.pmrecip rd rs2) s = .next (raise .notinv s) ∧ exec (.pmdiv rd rs1 rs2) s = .next (raise .notinv s))

/-- PMPOW in a valid ring (R191, R201): E_ZEROZERO for the residue 0 to the 0; for an exponent not below 0 the power;
for one below 0 the inverse of the power with its magnitude, or the error of the failed inverse. -/
def Obligations.PolyRingPower : Prop :=
  ∀ (s : State) (rd rs1 rs2 : Reg), s.pmodv = true → s.pmod ≠ 0 →
    let m := s.pmod.toNat
    let a := s.u64 rs1
    let e := s.s64 rs2
    (pmodp a m = 0 → e = 0 → exec (.pmpow rd rs1 rs2) s = .next (raise .zerozero s)) ∧
    (0 ≤ e → (pmodp a m ≠ 0 ∨ e ≠ 0) → ∃ r < 2 ^ 64, Reduced m r ∧ PolyCongr m (polyOf r) (polyOf a ^ e.toNat) ∧
      exec (.pmpow rd rs1 rs2) s = .next ((s.setNat rd r).setCode 0)) ∧
    (e < 0 → pgcd a m = 1 → ∃ r < 2 ^ 64, Reduced m r ∧ PolyCongr m (polyOf r * polyOf a ^ e.natAbs) 1 ∧
      exec (.pmpow rd rs1 rs2) s = .next ((s.setNat rd r).setCode 0)) ∧
    (e < 0 → pgcd a m ≠ 1 → pmodp a m = 0 → exec (.pmpow rd rs1 rs2) s = .next (raise .divzero s)) ∧
    (e < 0 → pgcd a m ≠ 1 → pmodp a m ≠ 0 → exec (.pmpow rd rs1 rs2) s = .next (raise .notinv s))

/-- PMNEXTU and IMNEXTU in a valid ring (R200, 45_intmod.md R250): the least unit above the operand, or 0 where there
is none. -/
def Obligations.NextUnits : Prop :=
  ∀ (s : State) (rd rs1 : Reg),
    (s.pmodv = true → s.pmod ≠ 0 →
      ∃ u < 2 ^ 64, exec (.pmnextu rd rs1) s = .next ((s.setNat rd u).setCode 0) ∧
        (IsLeast {v | s.u64 rs1 < v ∧ PolyUnit s.pmod.toNat v} u ∨
          u = 0 ∧ ∀ v, s.u64 rs1 < v → ¬ PolyUnit s.pmod.toNat v)) ∧
    (s.imodv = true → 0 < s.imod.toInt →
      ∃ u < 2 ^ 63, exec (.imnextu rd rs1) s = .next ((s.setNat rd u).setCode 0) ∧
        (IsLeast {v : Nat | s.s64 rs1 < (v : Int) ∧ IntUnit s.imod.toNat v} u ∨
          u = 0 ∧ ∀ v : Nat, s.s64 rs1 < (v : Int) → ¬ IntUnit s.imod.toNat v))

/-! ## IntArith and IntFactor -/

/-- IGCD and ILCM (44_intarith.md R210, R212, R221, R223): the greatest common divisor and the least common multiple of
the signed operands where they fit 63 bits, else E_OVERFLOW. -/
def Obligations.IntGcdLcm : Prop :=
  ∀ (s : State) (rd rs1 rs2 : Reg),
    let g := Int.gcd (s.s64 rs1) (s.s64 rs2)
    let l := Int.lcm (s.s64 rs1) (s.s64 rs2)
    (g < 2 ^ 63 → exec (.igcd rd rs1 rs2) s = .next ((s.setNat rd g).setCode 0)) ∧
    (2 ^ 63 ≤ g → exec (.igcd rd rs1 rs2) s = .next (raise .overflow s)) ∧
    (l < 2 ^ 63 → exec (.ilcm rd rs1 rs2) s = .next ((s.setNat rd l).setCode 0)) ∧
    (2 ^ 63 ≤ l → exec (.ilcm rd rs1 rs2) s = .next (raise .overflow s))

/-- IXGCD (R211, R222): the greatest common divisor g and two 64-bit integers u, v with u·a + v·b = g in unbounded
integers, E_OVERFLOW where g does not fit 63 bits. The pair is the one of the iteration R211: (the sign of a, 0) where b
is 0, (0, the sign of b) where a is 0 or both have one magnitude, and otherwise the only pair with 2g|u| at most |b| and
2g|v| at most |a|. -/
def Obligations.IntBezout : Prop :=
  ∀ (s : State) (rd rd2 rd3 rs1 rs2 : Reg),
    let a := s.s64 rs1
    let b := s.s64 rs2
    let g := Int.gcd a b
    let sign := fun z : Int => if z < 0 then (-1 : Int) else 1
    (2 ^ 63 ≤ g → exec (.ixgcd rd rd2 rd3 rs1 rs2) s = .next (raise .overflow s)) ∧
    (g < 2 ^ 63 → ∃ u v : Int, u * a + v * b = g ∧ -2 ^ 63 ≤ u ∧ u < 2 ^ 63 ∧ -2 ^ 63 ≤ v ∧ v < 2 ^ 63 ∧
      (b = 0 → u = sign a ∧ v = 0) ∧ (b ≠ 0 → a = 0 ∨ a.natAbs = b.natAbs → u = 0 ∧ v = sign b) ∧
      (a ≠ 0 → b ≠ 0 → a.natAbs ≠ b.natAbs →
        2 * g * u.natAbs ≤ b.natAbs ∧ 2 * g * v.natAbs ≤ a.natAbs) ∧
      exec (.ixgcd rd rd2 rd3 rs1 rs2) s = .next ((((s.setNat rd g).setInt rd2 u).setInt rd3 v).setCode 0))

/-- IPHI and ITOTIENT (R213, R219, R224, R230): Euler's totient of a positive operand, E_UNDEF for any other; FAC
stays. -/
def Obligations.IntTotients : Prop :=
  ∀ (s : State) (rd rs1 : Reg),
    (s.s64 rs1 ≤ 0 →
      exec (.iphi rd rs1) s = .next (raise .undef s) ∧ exec (.itotient rd rs1) s = .next (raise .undef s)) ∧
    (0 < s.s64 rs1 →
      exec (.iphi rd rs1) s = .next ((s.setNat rd (Nat.totient (s.s64 rs1).toNat)).setCode 0) ∧
      exec (.itotient rd rs1) s = .next ((s.setNat rd (Nat.totient (s.s64 rs1).toNat)).setCode 0))

/-- IMODEXP and IMODRECIP (R214, R215, R225, R226): E_DIVZERO for the modulus 0, E_UNDEF for one below 0; then for
IMODEXP E_NEGEXP for an exponent below 0, else the exact power modulo the modulus; for IMODRECIP E_NOTINV for an
operand not coprime to the modulus, else the inverse modulo it. -/
def Obligations.IntModularArithmetic : Prop :=
  ∀ (s : State) (rd rs1 rs2 rs3 : Reg),
    let x := s.s64 rs1
    let e := s.s64 rs2
    let m := s.s64 rs3
    (m = 0 → exec (.imodexp rd rs1 rs2 rs3) s = .next (raise .divzero s) ∧
      exec (.imodrecip rd rs1 rs3) s = .next (raise .divzero s)) ∧
    (m < 0 → exec (.imodexp rd rs1 rs2 rs3) s = .next (raise .undef s) ∧
      exec (.imodrecip rd rs1 rs3) s = .next (raise .undef s)) ∧
    (0 < m → e < 0 → exec (.imodexp rd rs1 rs2 rs3) s = .next (raise .negexp s)) ∧
    (0 < m → 0 ≤ e → exec (.imodexp rd rs1 rs2 rs3) s = .next ((s.setInt rd (x ^ e.toNat % m)).setCode 0)) ∧
    (0 < m → Int.gcd x m ≠ 1 → exec (.imodrecip rd rs1 rs3) s = .next (raise .notinv s)) ∧
    (0 < m → Int.gcd x m = 1 → ∃ r : Int, 0 ≤ r ∧ r < m ∧ r * x % m = 1 % m ∧
      exec (.imodrecip rd rs1 rs3) s = .next ((s.setInt rd r).setCode 0))

/-- IFACT (R216, R228): E_UNDEF below 0, E_OVERFLOW above 20, else the factorial. -/
def Obligations.IntFactorial : Prop :=
  ∀ (s : State) (rd rs1 : Reg),
    (s.s64 rs1 < 0 → exec (.ifact rd rs1) s = .next (raise .undef s)) ∧
    (20 < s.s64 rs1 → exec (.ifact rd rs1) s = .next (raise .overflow s)) ∧
    (0 ≤ s.s64 rs1 → s.s64 rs1 ≤ 20 →
      exec (.ifact rd rs1) s = .next ((s.setNat rd (s.s64 rs1).toNat.factorial).setCode 0))

/-- IFACTOR (R217, R229): E_UNDEF for 0; else the sign as the trivial factor and in FAC the prime factorisation of the
magnitude. -/
def Obligations.IntFactorisation : Prop :=
  ∀ (s : State) (rs1 : Reg), Memory.wf s →
    let n := s.s64 rs1
    (n = 0 → exec (.ifactor rs1) s = .next (raise .undef s)) ∧
    (n ≠ 0 → ∃ l mb mm, IsIntFactors n.natAbs l ∧ l.length ≤ 15 ∧ HoldsPairs mb mm l ∧
      exec (.ifactor rs1) s =
        .next ({ s with
          fstat := fstatWord l.length 2 true
          ftriv := BitVec.ofInt 64 n.sign
          facb := mb
          facm := mm }.setCode 0))

/-- IDIVNEXT (R218, R227): E_UNDEF for 0; 0 where there is no divisor above the previous one; else the least such
divisor, E_OVERFLOW where that is 2^63. -/
def Obligations.IntNextDivisor : Prop :=
  ∀ (s : State) (rd rs1 rs2 : Reg),
    let n := s.s64 rs1
    let p := s.s64 rs2
    (n = 0 → exec (.idivnext rd rs1 rs2) s = .next (raise .undef s)) ∧
    (n ≠ 0 → (n.natAbs : Int) ≤ p → exec (.idivnext rd rs1 rs2) s = .next ((s.setNat rd 0).setCode 0)) ∧
    (n ≠ 0 → p < (n.natAbs : Int) →
      ∃ d : Nat, IsLeast {k : Nat | p < (k : Int) ∧ 1 ≤ k ∧ k ∣ n.natAbs} d ∧
        exec (.idivnext rd rs1 rs2) s =
          .next (if d < 2 ^ 63 then (s.setNat rd d).setCode 0 else raise .overflow s))

/-! ## IntMod -/

/-- IMRED, IMADD, IMSUB and IMMUL in a valid ring (45_intmod.md R240, R242 to R245, R249): the operand, the sum, the
difference and the product modulo M, exact before the reduction, for any words as operands. -/
def Obligations.IntRing : Prop :=
  ∀ (s : State) (rd rs1 rs2 : Reg), s.imodv = true → 0 < s.imod.toInt →
    let m := s.imod.toInt
    let a := s.s64 rs1
    let b := s.s64 rs2
    exec (.imred rd rs1) s = .next ((s.setInt rd (a % m)).setCode 0) ∧
    exec (.imadd rd rs1 rs2) s = .next ((s.setInt rd ((a + b) % m)).setCode 0) ∧
    exec (.imsub rd rs1 rs2) s = .next ((s.setInt rd ((a - b) % m)).setCode 0) ∧
    exec (.immul rd rs1 rs2) s = .next ((s.setInt rd (a * b % m)).setCode 0)

/-- IMRECIP and IMDIV in a valid ring (R246, R247, R251): for an operand that is a unit, its inverse, and the residue
whose product with it is the dividend; else E_DIVZERO where it reduces to 0 and E_NOTINV where it does not. -/
def Obligations.IntInverse : Prop :=
  ∀ (s : State) (rd rs1 rs2 : Reg), s.imodv = true → 0 < s.imod.toInt →
    let m := s.imod.toInt
    let a := s.s64 rs1
    let b := s.s64 rs2
    (Int.gcd b m = 1 →
      (∃ r : Int, 0 ≤ r ∧ r < m ∧ r * b % m = 1 % m ∧
        exec (.imrecip rd rs2) s = .next ((s.setInt rd r).setCode 0)) ∧
      (∃ r : Int, 0 ≤ r ∧ r < m ∧ r * b % m = a % m ∧
        exec (.imdiv rd rs1 rs2) s = .next ((s.setInt rd r).setCode 0))) ∧
    (Int.gcd b m ≠ 1 → b % m = 0 →
      exec (.imrecip rd rs2) s = .next (raise .divzero s) ∧ exec (.imdiv rd rs1 rs2) s = .next (raise .divzero s)) ∧
    (Int.gcd b m ≠ 1 → b % m ≠ 0 →
      exec (.imrecip rd rs2) s = .next (raise .notinv s) ∧ exec (.imdiv rd rs1 rs2) s = .next (raise .notinv s))

/-- IMPOW in a valid ring (R248): E_ZEROZERO for the residue 0 to the 0; for an exponent not below 0 the power; for one
below 0 the inverse of the power with its magnitude, or the error of the failed inverse. -/
def Obligations.IntRingPower : Prop :=
  ∀ (s : State) (rd rs1 rs2 : Reg), s.imodv = true → 0 < s.imod.toInt →
    let m := s.imod.toInt
    let a := s.s64 rs1
    let e := s.s64 rs2
    (a % m = 0 → e = 0 → exec (.impow rd rs1 rs2) s = .next (raise .zerozero s)) ∧
    (0 ≤ e → (a % m ≠ 0 ∨ e ≠ 0) →
      exec (.impow rd rs1 rs2) s = .next ((s.setInt rd (a ^ e.toNat % m)).setCode 0)) ∧
    (e < 0 → Int.gcd a m = 1 → ∃ r : Int, 0 ≤ r ∧ r < m ∧ r * a ^ e.natAbs % m = 1 % m ∧
      exec (.impow rd rs1 rs2) s = .next ((s.setInt rd r).setCode 0)) ∧
    (e < 0 → Int.gcd a m ≠ 1 → a % m = 0 → exec (.impow rd rs1 rs2) s = .next (raise .divzero s)) ∧
    (e < 0 → Int.gcd a m ≠ 1 → a % m ≠ 0 → exec (.impow rd rs1 rs2) s = .next (raise .notinv s))

/-! ## Order -/

/-- IMORDER and PMORDER in a valid ring (46_order.md R260 to R262): E_NOTINV for an operand that is no unit, else its
multiplicative order, the least exponent at least 1 that gives 1. -/
def Obligations.Orders : Prop :=
  ∀ (s : State) (rd rs1 : Reg),
    (s.imodv = true → 0 < s.imod.toInt →
      (Int.gcd (s.s64 rs1) s.imod.toInt ≠ 1 → exec (.imorder rd rs1) s = .next (raise .notinv s)) ∧
      (Int.gcd (s.s64 rs1) s.imod.toInt = 1 → ∃ e < 2 ^ 63, IsIntOrder s.imod.toNat (s.s64 rs1) e ∧
        exec (.imorder rd rs1) s = .next ((s.setNat rd e).setCode 0))) ∧
    (s.pmodv = true → s.pmod ≠ 0 →
      (pgcd (s.u64 rs1) s.pmod.toNat ≠ 1 → exec (.pmorder rd rs1) s = .next (raise .notinv s)) ∧
      (pgcd (s.u64 rs1) s.pmod.toNat = 1 → ∃ e < 2 ^ 63, IsPolyOrder s.pmod.toNat (s.u64 rs1) e ∧
        exec (.pmorder rd rs1) s = .next ((s.setNat rd e).setCode 0)))

/-- IMMAXORD and PMMAXORD in a valid ring (R263, R264, R268): E_UNDEF for the modulus 1, else the greatest of the orders
of the units. -/
def Obligations.MaximalOrders : Prop :=
  ∀ (s : State) (rd : Reg),
    (s.imodv = true → 0 < s.imod.toInt →
      (s.imod = 1 → exec (.immaxord rd) s = .next (raise .undef s)) ∧
      (s.imod ≠ 1 → ∃ e < 2 ^ 63, IsGreatest {k | ∃ u : Nat, IntUnit s.imod.toNat u ∧ IsIntOrder s.imod.toNat u k} e ∧
        exec (.immaxord rd) s = .next ((s.setNat rd e).setCode 0))) ∧
    (s.pmodv = true → s.pmod ≠ 0 →
      (s.pmod = 1 → exec (.pmmaxord rd) s = .next (raise .undef s)) ∧
      (s.pmod ≠ 1 → ∃ e < 2 ^ 63, IsGreatest {k | ∃ u, PolyUnit s.pmod.toNat u ∧ IsPolyOrder s.pmod.toNat u k} e ∧
        exec (.pmmaxord rd) s = .next ((s.setNat rd e).setCode 0)))

/-- IMGEN and PMGEN in a valid ring (R265, R266, R268): the least unit whose order is the number of units, E_NOTFOUND
where there is none. -/
def Obligations.Generators : Prop :=
  ∀ (s : State) (rd : Reg),
    (s.imodv = true → 0 < s.imod.toInt →
      let m := s.imod.toNat
      let gens := {u : Nat | IntUnit m u ∧ IsIntOrder m u (Nat.totient m)}
      (gens.Nonempty → ∃ u < 2 ^ 63, IsLeast gens u ∧ exec (.imgen rd) s = .next ((s.setNat rd u).setCode 0)) ∧
      (¬ gens.Nonempty → exec (.imgen rd) s = .next (raise .notfound s))) ∧
    (s.pmodv = true → s.pmod ≠ 0 →
      let m := s.pmod.toNat
      let gens := {u : Nat | PolyUnit m u ∧ IsPolyOrder m u (polyTotient m)}
      (gens.Nonempty → ∃ u < 2 ^ 64, IsLeast gens u ∧ exec (.pmgen rd) s = .next ((s.setNat rd u).setCode 0)) ∧
      (¬ gens.Nonempty → exec (.pmgen rd) s = .next (raise .notfound s)))

/-- PPRIM (R267, R269): E_UNDEF for a polynomial of degree 0; else 1 exactly where x is a unit modulo it and generates
the unit group, that is, has the number of units as its order. -/
def Obligations.Primitivity : Prop :=
  ∀ (s : State) (rd rs1 : Reg),
    (s.u64 rs1 < 2 → exec (.pprim rd rs1) s = .next (raise .undef s)) ∧
    (2 ≤ s.u64 rs1 → ∃ b : Bool,
      (b = true ↔ IsCoprime Polynomial.X (polyOf (s.u64 rs1)) ∧ IsPolyOrder (s.u64 rs1) 2 (polyTotient (s.u64 rs1))) ∧
      exec (.pprim rd rs1) s = .next ((s.setNat rd b.toNat).setCode 0))

end
end

