-- ==== Sys2Proof/Laws/State.lean ====
section
/-! SUPPORT. What each update of the state does to each field, true by rfl, so that no proof unfolds an update. -/

namespace Sys2Proof.Machine

/-! ## Operand registers -/

@[simp] theorem set_x (s : State) (r : Reg) (v : Word) : (s.set r v).x = s.x.set r.toNat v r.isLt := rfl
@[simp] theorem set_cmd (s : State) (r : Reg) (v : Word) : (s.set r v).cmd = s.cmd := rfl
@[simp] theorem set_status (s : State) (r : Reg) (v : Word) : (s.set r v).status = s.status := rfl
@[simp] theorem set_esticky (s : State) (r : Reg) (v : Word) : (s.set r v).esticky = s.esticky := rfl
@[simp] theorem set_ecmd (s : State) (r : Reg) (v : Word) : (s.set r v).ecmd = s.ecmd := rfl
@[simp] theorem set_pmod (s : State) (r : Reg) (v : Word) : (s.set r v).pmod = s.pmod := rfl
@[simp] theorem set_imod (s : State) (r : Reg) (v : Word) : (s.set r v).imod = s.imod := rfl
@[simp] theorem set_mdim (s : State) (r : Reg) (v : Word) : (s.set r v).mdim = s.mdim := rfl
@[simp] theorem set_kdim (s : State) (r : Reg) (v : Word) : (s.set r v).kdim = s.kdim := rfl
@[simp] theorem set_fstat (s : State) (r : Reg) (v : Word) : (s.set r v).fstat = s.fstat := rfl
@[simp] theorem set_ftriv (s : State) (r : Reg) (v : Word) : (s.set r v).ftriv = s.ftriv := rfl
@[simp] theorem set_mat (s : State) (r : Reg) (v : Word) : (s.set r v).mat = s.mat := rfl
@[simp] theorem set_ker (s : State) (r : Reg) (v : Word) : (s.set r v).ker = s.ker := rfl
@[simp] theorem set_facb (s : State) (r : Reg) (v : Word) : (s.set r v).facb = s.facb := rfl
@[simp] theorem set_facm (s : State) (r : Reg) (v : Word) : (s.set r v).facm = s.facm := rfl
@[simp] theorem set_hostq (s : State) (r : Reg) (v : Word) : (s.set r v).hostq = s.hostq := rfl
@[simp] theorem set_reply (s : State) (r : Reg) (v : Word) : (s.set r v).reply = s.reply := rfl
@[simp] theorem set_resetLine (s : State) (r : Reg) (v : Word) : (s.set r v).resetLine = s.resetLine := rfl
@[simp] theorem set_rnd (s : State) (r : Reg) (v : Word) : (s.set r v).rnd = s.rnd := rfl
@[simp] theorem set_drawn (s : State) (r : Reg) (v : Word) : (s.set r v).drawn = s.drawn := rfl
@[simp] theorem set_search (s : State) (r : Reg) (v : Word) : (s.set r v).search = s.search := rfl

@[simp] theorem setNat_eq_set (s : State) (r : Reg) (n : Nat) : s.setNat r n = s.set r (BitVec.ofNat 64 n) := rfl
@[simp] theorem setInt_eq_set (s : State) (r : Reg) (z : Int) : s.setInt r z = s.set r (BitVec.ofInt 64 z) := rfl
@[simp] theorem setBool_eq_set (s : State) (r : Reg) (b : Bool) :
    s.setBool r b = s.set r (BitVec.ofNat 64 b.toNat) := rfl

/-! ## STATUS and ESTICKY -/

@[simp] theorem setCode_x (s : State) (c : Nat) : (s.setCode c).x = s.x := rfl
@[simp] theorem setCode_cmd (s : State) (c : Nat) : (s.setCode c).cmd = s.cmd := rfl
@[simp] theorem setCode_status (s : State) (c : Nat) : (s.setCode c).status = setField s.status 0 (BitVec.ofNat 8 c) := rfl
@[simp] theorem setCode_esticky (s : State) (c : Nat) : (s.setCode c).esticky = s.esticky := rfl
@[simp] theorem setCode_ecmd (s : State) (c : Nat) : (s.setCode c).ecmd = s.ecmd := rfl
@[simp] theorem setCode_pmod (s : State) (c : Nat) : (s.setCode c).pmod = s.pmod := rfl
@[simp] theorem setCode_imod (s : State) (c : Nat) : (s.setCode c).imod = s.imod := rfl
@[simp] theorem setCode_mdim (s : State) (c : Nat) : (s.setCode c).mdim = s.mdim := rfl
@[simp] theorem setCode_kdim (s : State) (c : Nat) : (s.setCode c).kdim = s.kdim := rfl
@[simp] theorem setCode_fstat (s : State) (c : Nat) : (s.setCode c).fstat = s.fstat := rfl
@[simp] theorem setCode_ftriv (s : State) (c : Nat) : (s.setCode c).ftriv = s.ftriv := rfl
@[simp] theorem setCode_mat (s : State) (c : Nat) : (s.setCode c).mat = s.mat := rfl
@[simp] theorem setCode_ker (s : State) (c : Nat) : (s.setCode c).ker = s.ker := rfl
@[simp] theorem setCode_facb (s : State) (c : Nat) : (s.setCode c).facb = s.facb := rfl
@[simp] theorem setCode_facm (s : State) (c : Nat) : (s.setCode c).facm = s.facm := rfl
@[simp] theorem setCode_hostq (s : State) (c : Nat) : (s.setCode c).hostq = s.hostq := rfl
@[simp] theorem setCode_reply (s : State) (c : Nat) : (s.setCode c).reply = s.reply := rfl
@[simp] theorem setCode_resetLine (s : State) (c : Nat) : (s.setCode c).resetLine = s.resetLine := rfl
@[simp] theorem setCode_rnd (s : State) (c : Nat) : (s.setCode c).rnd = s.rnd := rfl
@[simp] theorem setCode_drawn (s : State) (c : Nat) : (s.setCode c).drawn = s.drawn := rfl
@[simp] theorem setCode_search (s : State) (c : Nat) : (s.setCode c).search = s.search := rfl

@[simp] theorem setFatal_x (s : State) (b : Bool) : (s.setFatal b).x = s.x := rfl
@[simp] theorem setFatal_cmd (s : State) (b : Bool) : (s.setFatal b).cmd = s.cmd := rfl
@[simp] theorem setFatal_status (s : State) (b : Bool) : (s.setFatal b).status = setField s.status 8 (BitVec.ofBool b) := rfl
@[simp] theorem setFatal_esticky (s : State) (b : Bool) : (s.setFatal b).esticky = s.esticky := rfl
@[simp] theorem setFatal_ecmd (s : State) (b : Bool) : (s.setFatal b).ecmd = s.ecmd := rfl
@[simp] theorem setFatal_pmod (s : State) (b : Bool) : (s.setFatal b).pmod = s.pmod := rfl
@[simp] theorem setFatal_imod (s : State) (b : Bool) : (s.setFatal b).imod = s.imod := rfl
@[simp] theorem setFatal_mdim (s : State) (b : Bool) : (s.setFatal b).mdim = s.mdim := rfl
@[simp] theorem setFatal_kdim (s : State) (b : Bool) : (s.setFatal b).kdim = s.kdim := rfl
@[simp] theorem setFatal_fstat (s : State) (b : Bool) : (s.setFatal b).fstat = s.fstat := rfl
@[simp] theorem setFatal_ftriv (s : State) (b : Bool) : (s.setFatal b).ftriv = s.ftriv := rfl
@[simp] theorem setFatal_mat (s : State) (b : Bool) : (s.setFatal b).mat = s.mat := rfl
@[simp] theorem setFatal_ker (s : State) (b : Bool) : (s.setFatal b).ker = s.ker := rfl
@[simp] theorem setFatal_facb (s : State) (b : Bool) : (s.setFatal b).facb = s.facb := rfl
@[simp] theorem setFatal_facm (s : State) (b : Bool) : (s.setFatal b).facm = s.facm := rfl
@[simp] theorem setFatal_hostq (s : State) (b : Bool) : (s.setFatal b).hostq = s.hostq := rfl
@[simp] theorem setFatal_reply (s : State) (b : Bool) : (s.setFatal b).reply = s.reply := rfl
@[simp] theorem setFatal_resetLine (s : State) (b : Bool) : (s.setFatal b).resetLine = s.resetLine := rfl
@[simp] theorem setFatal_rnd (s : State) (b : Bool) : (s.setFatal b).rnd = s.rnd := rfl
@[simp] theorem setFatal_drawn (s : State) (b : Bool) : (s.setFatal b).drawn = s.drawn := rfl
@[simp] theorem setFatal_search (s : State) (b : Bool) : (s.setFatal b).search = s.search := rfl

@[simp] theorem setPmodv_x (s : State) (b : Bool) : (s.setPmodv b).x = s.x := rfl
@[simp] theorem setPmodv_cmd (s : State) (b : Bool) : (s.setPmodv b).cmd = s.cmd := rfl
@[simp] theorem setPmodv_status (s : State) (b : Bool) : (s.setPmodv b).status = setField s.status 9 (BitVec.ofBool b) := rfl
@[simp] theorem setPmodv_esticky (s : State) (b : Bool) : (s.setPmodv b).esticky = s.esticky := rfl
@[simp] theorem setPmodv_ecmd (s : State) (b : Bool) : (s.setPmodv b).ecmd = s.ecmd := rfl
@[simp] theorem setPmodv_pmod (s : State) (b : Bool) : (s.setPmodv b).pmod = s.pmod := rfl
@[simp] theorem setPmodv_imod (s : State) (b : Bool) : (s.setPmodv b).imod = s.imod := rfl
@[simp] theorem setPmodv_mdim (s : State) (b : Bool) : (s.setPmodv b).mdim = s.mdim := rfl
@[simp] theorem setPmodv_kdim (s : State) (b : Bool) : (s.setPmodv b).kdim = s.kdim := rfl
@[simp] theorem setPmodv_fstat (s : State) (b : Bool) : (s.setPmodv b).fstat = s.fstat := rfl
@[simp] theorem setPmodv_ftriv (s : State) (b : Bool) : (s.setPmodv b).ftriv = s.ftriv := rfl
@[simp] theorem setPmodv_mat (s : State) (b : Bool) : (s.setPmodv b).mat = s.mat := rfl
@[simp] theorem setPmodv_ker (s : State) (b : Bool) : (s.setPmodv b).ker = s.ker := rfl
@[simp] theorem setPmodv_facb (s : State) (b : Bool) : (s.setPmodv b).facb = s.facb := rfl
@[simp] theorem setPmodv_facm (s : State) (b : Bool) : (s.setPmodv b).facm = s.facm := rfl
@[simp] theorem setPmodv_hostq (s : State) (b : Bool) : (s.setPmodv b).hostq = s.hostq := rfl
@[simp] theorem setPmodv_reply (s : State) (b : Bool) : (s.setPmodv b).reply = s.reply := rfl
@[simp] theorem setPmodv_resetLine (s : State) (b : Bool) : (s.setPmodv b).resetLine = s.resetLine := rfl
@[simp] theorem setPmodv_rnd (s : State) (b : Bool) : (s.setPmodv b).rnd = s.rnd := rfl
@[simp] theorem setPmodv_drawn (s : State) (b : Bool) : (s.setPmodv b).drawn = s.drawn := rfl
@[simp] theorem setPmodv_search (s : State) (b : Bool) : (s.setPmodv b).search = s.search := rfl

@[simp] theorem setImodv_x (s : State) (b : Bool) : (s.setImodv b).x = s.x := rfl
@[simp] theorem setImodv_cmd (s : State) (b : Bool) : (s.setImodv b).cmd = s.cmd := rfl
@[simp] theorem setImodv_status (s : State) (b : Bool) : (s.setImodv b).status = setField s.status 10 (BitVec.ofBool b) := rfl
@[simp] theorem setImodv_esticky (s : State) (b : Bool) : (s.setImodv b).esticky = s.esticky := rfl
@[simp] theorem setImodv_ecmd (s : State) (b : Bool) : (s.setImodv b).ecmd = s.ecmd := rfl
@[simp] theorem setImodv_pmod (s : State) (b : Bool) : (s.setImodv b).pmod = s.pmod := rfl
@[simp] theorem setImodv_imod (s : State) (b : Bool) : (s.setImodv b).imod = s.imod := rfl
@[simp] theorem setImodv_mdim (s : State) (b : Bool) : (s.setImodv b).mdim = s.mdim := rfl
@[simp] theorem setImodv_kdim (s : State) (b : Bool) : (s.setImodv b).kdim = s.kdim := rfl
@[simp] theorem setImodv_fstat (s : State) (b : Bool) : (s.setImodv b).fstat = s.fstat := rfl
@[simp] theorem setImodv_ftriv (s : State) (b : Bool) : (s.setImodv b).ftriv = s.ftriv := rfl
@[simp] theorem setImodv_mat (s : State) (b : Bool) : (s.setImodv b).mat = s.mat := rfl
@[simp] theorem setImodv_ker (s : State) (b : Bool) : (s.setImodv b).ker = s.ker := rfl
@[simp] theorem setImodv_facb (s : State) (b : Bool) : (s.setImodv b).facb = s.facb := rfl
@[simp] theorem setImodv_facm (s : State) (b : Bool) : (s.setImodv b).facm = s.facm := rfl
@[simp] theorem setImodv_hostq (s : State) (b : Bool) : (s.setImodv b).hostq = s.hostq := rfl
@[simp] theorem setImodv_reply (s : State) (b : Bool) : (s.setImodv b).reply = s.reply := rfl
@[simp] theorem setImodv_resetLine (s : State) (b : Bool) : (s.setImodv b).resetLine = s.resetLine := rfl
@[simp] theorem setImodv_rnd (s : State) (b : Bool) : (s.setImodv b).rnd = s.rnd := rfl
@[simp] theorem setImodv_drawn (s : State) (b : Bool) : (s.setImodv b).drawn = s.drawn := rfl
@[simp] theorem setImodv_search (s : State) (b : Bool) : (s.setImodv b).search = s.search := rfl

@[simp] theorem setMatv_x (s : State) (b : Bool) : (s.setMatv b).x = s.x := rfl
@[simp] theorem setMatv_cmd (s : State) (b : Bool) : (s.setMatv b).cmd = s.cmd := rfl
@[simp] theorem setMatv_status (s : State) (b : Bool) : (s.setMatv b).status = setField s.status 11 (BitVec.ofBool b) := rfl
@[simp] theorem setMatv_esticky (s : State) (b : Bool) : (s.setMatv b).esticky = s.esticky := rfl
@[simp] theorem setMatv_ecmd (s : State) (b : Bool) : (s.setMatv b).ecmd = s.ecmd := rfl
@[simp] theorem setMatv_pmod (s : State) (b : Bool) : (s.setMatv b).pmod = s.pmod := rfl
@[simp] theorem setMatv_imod (s : State) (b : Bool) : (s.setMatv b).imod = s.imod := rfl
@[simp] theorem setMatv_mdim (s : State) (b : Bool) : (s.setMatv b).mdim = s.mdim := rfl
@[simp] theorem setMatv_kdim (s : State) (b : Bool) : (s.setMatv b).kdim = s.kdim := rfl
@[simp] theorem setMatv_fstat (s : State) (b : Bool) : (s.setMatv b).fstat = s.fstat := rfl
@[simp] theorem setMatv_ftriv (s : State) (b : Bool) : (s.setMatv b).ftriv = s.ftriv := rfl
@[simp] theorem setMatv_mat (s : State) (b : Bool) : (s.setMatv b).mat = s.mat := rfl
@[simp] theorem setMatv_ker (s : State) (b : Bool) : (s.setMatv b).ker = s.ker := rfl
@[simp] theorem setMatv_facb (s : State) (b : Bool) : (s.setMatv b).facb = s.facb := rfl
@[simp] theorem setMatv_facm (s : State) (b : Bool) : (s.setMatv b).facm = s.facm := rfl
@[simp] theorem setMatv_hostq (s : State) (b : Bool) : (s.setMatv b).hostq = s.hostq := rfl
@[simp] theorem setMatv_reply (s : State) (b : Bool) : (s.setMatv b).reply = s.reply := rfl
@[simp] theorem setMatv_resetLine (s : State) (b : Bool) : (s.setMatv b).resetLine = s.resetLine := rfl
@[simp] theorem setMatv_rnd (s : State) (b : Bool) : (s.setMatv b).rnd = s.rnd := rfl
@[simp] theorem setMatv_drawn (s : State) (b : Bool) : (s.setMatv b).drawn = s.drawn := rfl
@[simp] theorem setMatv_search (s : State) (b : Bool) : (s.setMatv b).search = s.search := rfl

@[simp] theorem setKerv_x (s : State) (b : Bool) : (s.setKerv b).x = s.x := rfl
@[simp] theorem setKerv_cmd (s : State) (b : Bool) : (s.setKerv b).cmd = s.cmd := rfl
@[simp] theorem setKerv_status (s : State) (b : Bool) : (s.setKerv b).status = setField s.status 12 (BitVec.ofBool b) := rfl
@[simp] theorem setKerv_esticky (s : State) (b : Bool) : (s.setKerv b).esticky = s.esticky := rfl
@[simp] theorem setKerv_ecmd (s : State) (b : Bool) : (s.setKerv b).ecmd = s.ecmd := rfl
@[simp] theorem setKerv_pmod (s : State) (b : Bool) : (s.setKerv b).pmod = s.pmod := rfl
@[simp] theorem setKerv_imod (s : State) (b : Bool) : (s.setKerv b).imod = s.imod := rfl
@[simp] theorem setKerv_mdim (s : State) (b : Bool) : (s.setKerv b).mdim = s.mdim := rfl
@[simp] theorem setKerv_kdim (s : State) (b : Bool) : (s.setKerv b).kdim = s.kdim := rfl
@[simp] theorem setKerv_fstat (s : State) (b : Bool) : (s.setKerv b).fstat = s.fstat := rfl
@[simp] theorem setKerv_ftriv (s : State) (b : Bool) : (s.setKerv b).ftriv = s.ftriv := rfl
@[simp] theorem setKerv_mat (s : State) (b : Bool) : (s.setKerv b).mat = s.mat := rfl
@[simp] theorem setKerv_ker (s : State) (b : Bool) : (s.setKerv b).ker = s.ker := rfl
@[simp] theorem setKerv_facb (s : State) (b : Bool) : (s.setKerv b).facb = s.facb := rfl
@[simp] theorem setKerv_facm (s : State) (b : Bool) : (s.setKerv b).facm = s.facm := rfl
@[simp] theorem setKerv_hostq (s : State) (b : Bool) : (s.setKerv b).hostq = s.hostq := rfl
@[simp] theorem setKerv_reply (s : State) (b : Bool) : (s.setKerv b).reply = s.reply := rfl
@[simp] theorem setKerv_resetLine (s : State) (b : Bool) : (s.setKerv b).resetLine = s.resetLine := rfl
@[simp] theorem setKerv_rnd (s : State) (b : Bool) : (s.setKerv b).rnd = s.rnd := rfl
@[simp] theorem setKerv_drawn (s : State) (b : Bool) : (s.setKerv b).drawn = s.drawn := rfl
@[simp] theorem setKerv_search (s : State) (b : Bool) : (s.setKerv b).search = s.search := rfl

@[simp] theorem stick_x (s : State) (c : Nat) : (s.stick c).x = s.x := rfl
@[simp] theorem stick_cmd (s : State) (c : Nat) : (s.stick c).cmd = s.cmd := rfl
@[simp] theorem stick_status (s : State) (c : Nat) : (s.stick c).status = s.status := rfl
@[simp] theorem stick_esticky (s : State) (c : Nat) : (s.stick c).esticky = s.esticky ||| (1 <<< c) := rfl
@[simp] theorem stick_ecmd (s : State) (c : Nat) : (s.stick c).ecmd = s.ecmd := rfl
@[simp] theorem stick_pmod (s : State) (c : Nat) : (s.stick c).pmod = s.pmod := rfl
@[simp] theorem stick_imod (s : State) (c : Nat) : (s.stick c).imod = s.imod := rfl
@[simp] theorem stick_mdim (s : State) (c : Nat) : (s.stick c).mdim = s.mdim := rfl
@[simp] theorem stick_kdim (s : State) (c : Nat) : (s.stick c).kdim = s.kdim := rfl
@[simp] theorem stick_fstat (s : State) (c : Nat) : (s.stick c).fstat = s.fstat := rfl
@[simp] theorem stick_ftriv (s : State) (c : Nat) : (s.stick c).ftriv = s.ftriv := rfl
@[simp] theorem stick_mat (s : State) (c : Nat) : (s.stick c).mat = s.mat := rfl
@[simp] theorem stick_ker (s : State) (c : Nat) : (s.stick c).ker = s.ker := rfl
@[simp] theorem stick_facb (s : State) (c : Nat) : (s.stick c).facb = s.facb := rfl
@[simp] theorem stick_facm (s : State) (c : Nat) : (s.stick c).facm = s.facm := rfl
@[simp] theorem stick_hostq (s : State) (c : Nat) : (s.stick c).hostq = s.hostq := rfl
@[simp] theorem stick_reply (s : State) (c : Nat) : (s.stick c).reply = s.reply := rfl
@[simp] theorem stick_resetLine (s : State) (c : Nat) : (s.stick c).resetLine = s.resetLine := rfl
@[simp] theorem stick_rnd (s : State) (c : Nat) : (s.stick c).rnd = s.rnd := rfl
@[simp] theorem stick_drawn (s : State) (c : Nat) : (s.stick c).drawn = s.drawn := rfl
@[simp] theorem stick_search (s : State) (c : Nat) : (s.stick c).search = s.search := rfl

/-! ## Error completion -/

@[simp] theorem raise_x (e : ErrCode) (s : State) : (raise e s).x = s.x := rfl
@[simp] theorem raise_cmd (e : ErrCode) (s : State) : (raise e s).cmd = s.cmd := rfl
@[simp] theorem raise_status (e : ErrCode) (s : State) : (raise e s).status = setField s.status 0 (BitVec.ofNat 8 e.num) := rfl
@[simp] theorem raise_esticky (e : ErrCode) (s : State) : (raise e s).esticky = s.esticky ||| (1 <<< e.num) := rfl
@[simp] theorem raise_ecmd (e : ErrCode) (s : State) : (raise e s).ecmd = s.cmd := rfl
@[simp] theorem raise_pmod (e : ErrCode) (s : State) : (raise e s).pmod = s.pmod := rfl
@[simp] theorem raise_imod (e : ErrCode) (s : State) : (raise e s).imod = s.imod := rfl
@[simp] theorem raise_mdim (e : ErrCode) (s : State) : (raise e s).mdim = s.mdim := rfl
@[simp] theorem raise_kdim (e : ErrCode) (s : State) : (raise e s).kdim = s.kdim := rfl
@[simp] theorem raise_fstat (e : ErrCode) (s : State) : (raise e s).fstat = s.fstat := rfl
@[simp] theorem raise_ftriv (e : ErrCode) (s : State) : (raise e s).ftriv = s.ftriv := rfl
@[simp] theorem raise_mat (e : ErrCode) (s : State) : (raise e s).mat = s.mat := rfl
@[simp] theorem raise_ker (e : ErrCode) (s : State) : (raise e s).ker = s.ker := rfl
@[simp] theorem raise_facb (e : ErrCode) (s : State) : (raise e s).facb = s.facb := rfl
@[simp] theorem raise_facm (e : ErrCode) (s : State) : (raise e s).facm = s.facm := rfl
@[simp] theorem raise_hostq (e : ErrCode) (s : State) : (raise e s).hostq = s.hostq := rfl
@[simp] theorem raise_reply (e : ErrCode) (s : State) : (raise e s).reply = s.reply := rfl
@[simp] theorem raise_resetLine (e : ErrCode) (s : State) : (raise e s).resetLine = s.resetLine := rfl
@[simp] theorem raise_rnd (e : ErrCode) (s : State) : (raise e s).rnd = s.rnd := rfl
@[simp] theorem raise_drawn (e : ErrCode) (s : State) : (raise e s).drawn = s.drawn := rfl
@[simp] theorem raise_search (e : ErrCode) (s : State) : (raise e s).search = s.search := rfl

@[simp] theorem fatal_x (f : FatalCode) (s : State) : (fatal f s).x = s.x := rfl
@[simp] theorem fatal_cmd (f : FatalCode) (s : State) : (fatal f s).cmd = s.cmd := rfl
@[simp] theorem fatal_status (f : FatalCode) (s : State) : (fatal f s).status = setField (setField s.status 0 (BitVec.ofNat 8 f.num)) 8 (BitVec.ofBool true) := rfl
@[simp] theorem fatal_esticky (f : FatalCode) (s : State) : (fatal f s).esticky = s.esticky ||| (1 <<< f.num) := rfl
@[simp] theorem fatal_ecmd (f : FatalCode) (s : State) : (fatal f s).ecmd = s.cmd := rfl
@[simp] theorem fatal_pmod (f : FatalCode) (s : State) : (fatal f s).pmod = s.pmod := rfl
@[simp] theorem fatal_imod (f : FatalCode) (s : State) : (fatal f s).imod = s.imod := rfl
@[simp] theorem fatal_mdim (f : FatalCode) (s : State) : (fatal f s).mdim = s.mdim := rfl
@[simp] theorem fatal_kdim (f : FatalCode) (s : State) : (fatal f s).kdim = s.kdim := rfl
@[simp] theorem fatal_fstat (f : FatalCode) (s : State) : (fatal f s).fstat = s.fstat := rfl
@[simp] theorem fatal_ftriv (f : FatalCode) (s : State) : (fatal f s).ftriv = s.ftriv := rfl
@[simp] theorem fatal_mat (f : FatalCode) (s : State) : (fatal f s).mat = s.mat := rfl
@[simp] theorem fatal_ker (f : FatalCode) (s : State) : (fatal f s).ker = s.ker := rfl
@[simp] theorem fatal_facb (f : FatalCode) (s : State) : (fatal f s).facb = s.facb := rfl
@[simp] theorem fatal_facm (f : FatalCode) (s : State) : (fatal f s).facm = s.facm := rfl
@[simp] theorem fatal_hostq (f : FatalCode) (s : State) : (fatal f s).hostq = s.hostq := rfl
@[simp] theorem fatal_reply (f : FatalCode) (s : State) : (fatal f s).reply = s.reply := rfl
@[simp] theorem fatal_resetLine (f : FatalCode) (s : State) : (fatal f s).resetLine = s.resetLine := rfl
@[simp] theorem fatal_rnd (f : FatalCode) (s : State) : (fatal f s).rnd = s.rnd := rfl
@[simp] theorem fatal_drawn (f : FatalCode) (s : State) : (fatal f s).drawn = s.drawn := rfl
@[simp] theorem fatal_search (f : FatalCode) (s : State) : (fatal f s).search = s.search := rfl

/-! ## Banks -/

@[simp] theorem setBank_mat_x (s : State) (m : Bank) : (s.setBank .mat m).x = s.x := rfl
@[simp] theorem setBank_mat_cmd (s : State) (m : Bank) : (s.setBank .mat m).cmd = s.cmd := rfl
@[simp] theorem setBank_mat_status (s : State) (m : Bank) : (s.setBank .mat m).status = s.status := rfl
@[simp] theorem setBank_mat_esticky (s : State) (m : Bank) : (s.setBank .mat m).esticky = s.esticky := rfl
@[simp] theorem setBank_mat_ecmd (s : State) (m : Bank) : (s.setBank .mat m).ecmd = s.ecmd := rfl
@[simp] theorem setBank_mat_pmod (s : State) (m : Bank) : (s.setBank .mat m).pmod = s.pmod := rfl
@[simp] theorem setBank_mat_imod (s : State) (m : Bank) : (s.setBank .mat m).imod = s.imod := rfl
@[simp] theorem setBank_mat_mdim (s : State) (m : Bank) : (s.setBank .mat m).mdim = s.mdim := rfl
@[simp] theorem setBank_mat_kdim (s : State) (m : Bank) : (s.setBank .mat m).kdim = s.kdim := rfl
@[simp] theorem setBank_mat_fstat (s : State) (m : Bank) : (s.setBank .mat m).fstat = s.fstat := rfl
@[simp] theorem setBank_mat_ftriv (s : State) (m : Bank) : (s.setBank .mat m).ftriv = s.ftriv := rfl
@[simp] theorem setBank_mat_mat (s : State) (m : Bank) : (s.setBank .mat m).mat = m := rfl
@[simp] theorem setBank_mat_ker (s : State) (m : Bank) : (s.setBank .mat m).ker = s.ker := rfl
@[simp] theorem setBank_mat_facb (s : State) (m : Bank) : (s.setBank .mat m).facb = s.facb := rfl
@[simp] theorem setBank_mat_facm (s : State) (m : Bank) : (s.setBank .mat m).facm = s.facm := rfl
@[simp] theorem setBank_mat_hostq (s : State) (m : Bank) : (s.setBank .mat m).hostq = s.hostq := rfl
@[simp] theorem setBank_mat_reply (s : State) (m : Bank) : (s.setBank .mat m).reply = s.reply := rfl
@[simp] theorem setBank_mat_resetLine (s : State) (m : Bank) : (s.setBank .mat m).resetLine = s.resetLine := rfl
@[simp] theorem setBank_mat_rnd (s : State) (m : Bank) : (s.setBank .mat m).rnd = s.rnd := rfl
@[simp] theorem setBank_mat_drawn (s : State) (m : Bank) : (s.setBank .mat m).drawn = s.drawn := rfl
@[simp] theorem setBank_mat_search (s : State) (m : Bank) : (s.setBank .mat m).search = s.search := rfl

@[simp] theorem setBank_ker_x (s : State) (m : Bank) : (s.setBank .ker m).x = s.x := rfl
@[simp] theorem setBank_ker_cmd (s : State) (m : Bank) : (s.setBank .ker m).cmd = s.cmd := rfl
@[simp] theorem setBank_ker_status (s : State) (m : Bank) : (s.setBank .ker m).status = s.status := rfl
@[simp] theorem setBank_ker_esticky (s : State) (m : Bank) : (s.setBank .ker m).esticky = s.esticky := rfl
@[simp] theorem setBank_ker_ecmd (s : State) (m : Bank) : (s.setBank .ker m).ecmd = s.ecmd := rfl
@[simp] theorem setBank_ker_pmod (s : State) (m : Bank) : (s.setBank .ker m).pmod = s.pmod := rfl
@[simp] theorem setBank_ker_imod (s : State) (m : Bank) : (s.setBank .ker m).imod = s.imod := rfl
@[simp] theorem setBank_ker_mdim (s : State) (m : Bank) : (s.setBank .ker m).mdim = s.mdim := rfl
@[simp] theorem setBank_ker_kdim (s : State) (m : Bank) : (s.setBank .ker m).kdim = s.kdim := rfl
@[simp] theorem setBank_ker_fstat (s : State) (m : Bank) : (s.setBank .ker m).fstat = s.fstat := rfl
@[simp] theorem setBank_ker_ftriv (s : State) (m : Bank) : (s.setBank .ker m).ftriv = s.ftriv := rfl
@[simp] theorem setBank_ker_mat (s : State) (m : Bank) : (s.setBank .ker m).mat = s.mat := rfl
@[simp] theorem setBank_ker_ker (s : State) (m : Bank) : (s.setBank .ker m).ker = m := rfl
@[simp] theorem setBank_ker_facb (s : State) (m : Bank) : (s.setBank .ker m).facb = s.facb := rfl
@[simp] theorem setBank_ker_facm (s : State) (m : Bank) : (s.setBank .ker m).facm = s.facm := rfl
@[simp] theorem setBank_ker_hostq (s : State) (m : Bank) : (s.setBank .ker m).hostq = s.hostq := rfl
@[simp] theorem setBank_ker_reply (s : State) (m : Bank) : (s.setBank .ker m).reply = s.reply := rfl
@[simp] theorem setBank_ker_resetLine (s : State) (m : Bank) : (s.setBank .ker m).resetLine = s.resetLine := rfl
@[simp] theorem setBank_ker_rnd (s : State) (m : Bank) : (s.setBank .ker m).rnd = s.rnd := rfl
@[simp] theorem setBank_ker_drawn (s : State) (m : Bank) : (s.setBank .ker m).drawn = s.drawn := rfl
@[simp] theorem setBank_ker_search (s : State) (m : Bank) : (s.setBank .ker m).search = s.search := rfl

@[simp] theorem setBank_facb_x (s : State) (m : Bank) : (s.setBank .facb m).x = s.x := rfl
@[simp] theorem setBank_facb_cmd (s : State) (m : Bank) : (s.setBank .facb m).cmd = s.cmd := rfl
@[simp] theorem setBank_facb_status (s : State) (m : Bank) : (s.setBank .facb m).status = s.status := rfl
@[simp] theorem setBank_facb_esticky (s : State) (m : Bank) : (s.setBank .facb m).esticky = s.esticky := rfl
@[simp] theorem setBank_facb_ecmd (s : State) (m : Bank) : (s.setBank .facb m).ecmd = s.ecmd := rfl
@[simp] theorem setBank_facb_pmod (s : State) (m : Bank) : (s.setBank .facb m).pmod = s.pmod := rfl
@[simp] theorem setBank_facb_imod (s : State) (m : Bank) : (s.setBank .facb m).imod = s.imod := rfl
@[simp] theorem setBank_facb_mdim (s : State) (m : Bank) : (s.setBank .facb m).mdim = s.mdim := rfl
@[simp] theorem setBank_facb_kdim (s : State) (m : Bank) : (s.setBank .facb m).kdim = s.kdim := rfl
@[simp] theorem setBank_facb_fstat (s : State) (m : Bank) : (s.setBank .facb m).fstat = s.fstat := rfl
@[simp] theorem setBank_facb_ftriv (s : State) (m : Bank) : (s.setBank .facb m).ftriv = s.ftriv := rfl
@[simp] theorem setBank_facb_mat (s : State) (m : Bank) : (s.setBank .facb m).mat = s.mat := rfl
@[simp] theorem setBank_facb_ker (s : State) (m : Bank) : (s.setBank .facb m).ker = s.ker := rfl
@[simp] theorem setBank_facb_facb (s : State) (m : Bank) : (s.setBank .facb m).facb = m := rfl
@[simp] theorem setBank_facb_facm (s : State) (m : Bank) : (s.setBank .facb m).facm = s.facm := rfl
@[simp] theorem setBank_facb_hostq (s : State) (m : Bank) : (s.setBank .facb m).hostq = s.hostq := rfl
@[simp] theorem setBank_facb_reply (s : State) (m : Bank) : (s.setBank .facb m).reply = s.reply := rfl
@[simp] theorem setBank_facb_resetLine (s : State) (m : Bank) : (s.setBank .facb m).resetLine = s.resetLine := rfl
@[simp] theorem setBank_facb_rnd (s : State) (m : Bank) : (s.setBank .facb m).rnd = s.rnd := rfl
@[simp] theorem setBank_facb_drawn (s : State) (m : Bank) : (s.setBank .facb m).drawn = s.drawn := rfl
@[simp] theorem setBank_facb_search (s : State) (m : Bank) : (s.setBank .facb m).search = s.search := rfl

@[simp] theorem setBank_facm_x (s : State) (m : Bank) : (s.setBank .facm m).x = s.x := rfl
@[simp] theorem setBank_facm_cmd (s : State) (m : Bank) : (s.setBank .facm m).cmd = s.cmd := rfl
@[simp] theorem setBank_facm_status (s : State) (m : Bank) : (s.setBank .facm m).status = s.status := rfl
@[simp] theorem setBank_facm_esticky (s : State) (m : Bank) : (s.setBank .facm m).esticky = s.esticky := rfl
@[simp] theorem setBank_facm_ecmd (s : State) (m : Bank) : (s.setBank .facm m).ecmd = s.ecmd := rfl
@[simp] theorem setBank_facm_pmod (s : State) (m : Bank) : (s.setBank .facm m).pmod = s.pmod := rfl
@[simp] theorem setBank_facm_imod (s : State) (m : Bank) : (s.setBank .facm m).imod = s.imod := rfl
@[simp] theorem setBank_facm_mdim (s : State) (m : Bank) : (s.setBank .facm m).mdim = s.mdim := rfl
@[simp] theorem setBank_facm_kdim (s : State) (m : Bank) : (s.setBank .facm m).kdim = s.kdim := rfl
@[simp] theorem setBank_facm_fstat (s : State) (m : Bank) : (s.setBank .facm m).fstat = s.fstat := rfl
@[simp] theorem setBank_facm_ftriv (s : State) (m : Bank) : (s.setBank .facm m).ftriv = s.ftriv := rfl
@[simp] theorem setBank_facm_mat (s : State) (m : Bank) : (s.setBank .facm m).mat = s.mat := rfl
@[simp] theorem setBank_facm_ker (s : State) (m : Bank) : (s.setBank .facm m).ker = s.ker := rfl
@[simp] theorem setBank_facm_facb (s : State) (m : Bank) : (s.setBank .facm m).facb = s.facb := rfl
@[simp] theorem setBank_facm_facm (s : State) (m : Bank) : (s.setBank .facm m).facm = m := rfl
@[simp] theorem setBank_facm_hostq (s : State) (m : Bank) : (s.setBank .facm m).hostq = s.hostq := rfl
@[simp] theorem setBank_facm_reply (s : State) (m : Bank) : (s.setBank .facm m).reply = s.reply := rfl
@[simp] theorem setBank_facm_resetLine (s : State) (m : Bank) : (s.setBank .facm m).resetLine = s.resetLine := rfl
@[simp] theorem setBank_facm_rnd (s : State) (m : Bank) : (s.setBank .facm m).rnd = s.rnd := rfl
@[simp] theorem setBank_facm_drawn (s : State) (m : Bank) : (s.setBank .facm m).drawn = s.drawn := rfl
@[simp] theorem setBank_facm_search (s : State) (m : Bank) : (s.setBank .facm m).search = s.search := rfl

end Sys2Proof.Machine
end

