-- ==== Sys2Proof/Laws/Flags.lean ====
section
/-! SUPPORT. Writing one field of STATUS leaves the others (10_state.md R28), and the packed dimension and factor-list
registers read back their fields (R33 to R35). -/

namespace Sys2Proof.Machine

theorem getLsbD_setField {n : Nat} (w : Word) (lo k : Nat) (v : BitVec n) (hk : k < 64) :
    (setField w lo v).getLsbD k = if lo ≤ k ∧ k < lo + n then v.getLsbD (k - lo) else w.getLsbD k := by
  unfold setField
  simp only [BitVec.getLsbD_or, BitVec.getLsbD_and, BitVec.getLsbD_not, BitVec.getLsbD_shiftLeft,
    BitVec.getLsbD_setWidth, BitVec.getLsbD_allOnes]
  by_cases h1 : k < lo
  · have : ¬ (lo ≤ k ∧ k < lo + n) := by omega
    simp [hk, h1, this]
  · by_cases h2 : k < lo + n
    · have : lo ≤ k ∧ k < lo + n := by omega
      have h3 : k - lo < n := by omega
      have h4 : k - lo < 64 := by omega
      simp [hk, h1, this, h3, h4]
    · have h3 : ¬ k - lo < n := by omega
      have h4 : v.getLsbD (k - lo) = false := BitVec.getLsbD_of_ge _ _ (by omega)
      simp [hk, h1, h2, h3, h4]

/-- A field reads back what was written to it. -/
theorem extractLsb'_setField {n : Nat} (w : Word) (lo : Nat) (v : BitVec n) (h : lo + n ≤ 64) :
    (setField w lo v).extractLsb' lo n = v := by
  apply BitVec.eq_of_getLsbD_eq
  intro i hi
  simp only [BitVec.getLsbD_extractLsb', hi, decide_true, Bool.true_and]
  rw [getLsbD_setField _ _ _ _ (by omega)]
  simp [hi]

/-- A field is left by a write to another field. -/
theorem extractLsb'_setField_of_disjoint {n : Nat} (w : Word) (lo lo' m : Nat) (v : BitVec n)
    (h : lo' + m ≤ 64) (hd : lo' + m ≤ lo ∨ lo + n ≤ lo') :
    (setField w lo v).extractLsb' lo' m = w.extractLsb' lo' m := by
  apply BitVec.eq_of_getLsbD_eq
  intro i hi
  simp only [BitVec.getLsbD_extractLsb', hi, decide_true, Bool.true_and]
  rw [getLsbD_setField _ _ _ _ (by omega), if_neg (by omega)]

theorem ErrCode.num_lt (e : ErrCode) : e.num < 256 := by cases e <;> decide
theorem FatalCode.num_lt (f : FatalCode) : f.num < 256 := by cases f <;> decide

/-! ## The fields of STATUS -/

@[simp] theorem code_setCode (s : State) (c : Nat) : (s.setCode c).code = c % 256 := by
  simp only [State.code, setCode_status]
  rw [extractLsb'_setField _ _ _ (by omega)]
  simp

@[simp] theorem code_setFatal (s : State) (b : Bool) : (s.setFatal b).code = s.code := by
  simp only [State.code, setFatal_status]
  rw [extractLsb'_setField_of_disjoint _ _ _ _ _ (by omega) (by omega)]

@[simp] theorem fatal_setCode (s : State) (c : Nat) : (s.setCode c).fatal = s.fatal := by
  simp only [State.fatal, setCode_status]
  rw [getLsbD_setField _ _ _ _ (by omega), if_neg (by omega)]

@[simp] theorem fatal_setFatal (s : State) (b : Bool) : (s.setFatal b).fatal = b := by
  simp only [State.fatal, setFatal_status]
  rw [getLsbD_setField _ _ _ _ (by omega), if_pos (by omega)]
  cases b <;> rfl

@[simp] theorem fatal_setPmodv (s : State) (b : Bool) : (s.setPmodv b).fatal = s.fatal := by
  simp only [State.fatal, setPmodv_status]
  rw [getLsbD_setField _ _ _ _ (by omega), if_neg (by omega)]

@[simp] theorem fatal_setImodv (s : State) (b : Bool) : (s.setImodv b).fatal = s.fatal := by
  simp only [State.fatal, setImodv_status]
  rw [getLsbD_setField _ _ _ _ (by omega), if_neg (by omega)]

@[simp] theorem fatal_setMatv (s : State) (b : Bool) : (s.setMatv b).fatal = s.fatal := by
  simp only [State.fatal, setMatv_status]
  rw [getLsbD_setField _ _ _ _ (by omega), if_neg (by omega)]

@[simp] theorem fatal_setKerv (s : State) (b : Bool) : (s.setKerv b).fatal = s.fatal := by
  simp only [State.fatal, setKerv_status]
  rw [getLsbD_setField _ _ _ _ (by omega), if_neg (by omega)]

@[simp] theorem code_setPmodv (s : State) (b : Bool) : (s.setPmodv b).code = s.code := by
  simp only [State.code, setPmodv_status]
  rw [extractLsb'_setField_of_disjoint _ _ _ _ _ (by omega) (by omega)]

@[simp] theorem pmodv_setCode (s : State) (c : Nat) : (s.setCode c).pmodv = s.pmodv := by
  simp only [State.pmodv, setCode_status]
  rw [getLsbD_setField _ _ _ _ (by omega), if_neg (by omega)]

@[simp] theorem pmodv_setFatal (s : State) (b : Bool) : (s.setFatal b).pmodv = s.pmodv := by
  simp only [State.pmodv, setFatal_status]
  rw [getLsbD_setField _ _ _ _ (by omega), if_neg (by omega)]

@[simp] theorem pmodv_setPmodv (s : State) (b : Bool) : (s.setPmodv b).pmodv = b := by
  simp only [State.pmodv, setPmodv_status]
  rw [getLsbD_setField _ _ _ _ (by omega), if_pos (by omega)]
  cases b <;> rfl

@[simp] theorem pmodv_setImodv (s : State) (b : Bool) : (s.setImodv b).pmodv = s.pmodv := by
  simp only [State.pmodv, setImodv_status]
  rw [getLsbD_setField _ _ _ _ (by omega), if_neg (by omega)]

@[simp] theorem pmodv_setMatv (s : State) (b : Bool) : (s.setMatv b).pmodv = s.pmodv := by
  simp only [State.pmodv, setMatv_status]
  rw [getLsbD_setField _ _ _ _ (by omega), if_neg (by omega)]

@[simp] theorem pmodv_setKerv (s : State) (b : Bool) : (s.setKerv b).pmodv = s.pmodv := by
  simp only [State.pmodv, setKerv_status]
  rw [getLsbD_setField _ _ _ _ (by omega), if_neg (by omega)]

@[simp] theorem code_setImodv (s : State) (b : Bool) : (s.setImodv b).code = s.code := by
  simp only [State.code, setImodv_status]
  rw [extractLsb'_setField_of_disjoint _ _ _ _ _ (by omega) (by omega)]

@[simp] theorem imodv_setCode (s : State) (c : Nat) : (s.setCode c).imodv = s.imodv := by
  simp only [State.imodv, setCode_status]
  rw [getLsbD_setField _ _ _ _ (by omega), if_neg (by omega)]

@[simp] theorem imodv_setFatal (s : State) (b : Bool) : (s.setFatal b).imodv = s.imodv := by
  simp only [State.imodv, setFatal_status]
  rw [getLsbD_setField _ _ _ _ (by omega), if_neg (by omega)]

@[simp] theorem imodv_setPmodv (s : State) (b : Bool) : (s.setPmodv b).imodv = s.imodv := by
  simp only [State.imodv, setPmodv_status]
  rw [getLsbD_setField _ _ _ _ (by omega), if_neg (by omega)]

@[simp] theorem imodv_setImodv (s : State) (b : Bool) : (s.setImodv b).imodv = b := by
  simp only [State.imodv, setImodv_status]
  rw [getLsbD_setField _ _ _ _ (by omega), if_pos (by omega)]
  cases b <;> rfl

@[simp] theorem imodv_setMatv (s : State) (b : Bool) : (s.setMatv b).imodv = s.imodv := by
  simp only [State.imodv, setMatv_status]
  rw [getLsbD_setField _ _ _ _ (by omega), if_neg (by omega)]

@[simp] theorem imodv_setKerv (s : State) (b : Bool) : (s.setKerv b).imodv = s.imodv := by
  simp only [State.imodv, setKerv_status]
  rw [getLsbD_setField _ _ _ _ (by omega), if_neg (by omega)]

@[simp] theorem code_setMatv (s : State) (b : Bool) : (s.setMatv b).code = s.code := by
  simp only [State.code, setMatv_status]
  rw [extractLsb'_setField_of_disjoint _ _ _ _ _ (by omega) (by omega)]

@[simp] theorem matv_setCode (s : State) (c : Nat) : (s.setCode c).matv = s.matv := by
  simp only [State.matv, setCode_status]
  rw [getLsbD_setField _ _ _ _ (by omega), if_neg (by omega)]

@[simp] theorem matv_setFatal (s : State) (b : Bool) : (s.setFatal b).matv = s.matv := by
  simp only [State.matv, setFatal_status]
  rw [getLsbD_setField _ _ _ _ (by omega), if_neg (by omega)]

@[simp] theorem matv_setPmodv (s : State) (b : Bool) : (s.setPmodv b).matv = s.matv := by
  simp only [State.matv, setPmodv_status]
  rw [getLsbD_setField _ _ _ _ (by omega), if_neg (by omega)]

@[simp] theorem matv_setImodv (s : State) (b : Bool) : (s.setImodv b).matv = s.matv := by
  simp only [State.matv, setImodv_status]
  rw [getLsbD_setField _ _ _ _ (by omega), if_neg (by omega)]

@[simp] theorem matv_setMatv (s : State) (b : Bool) : (s.setMatv b).matv = b := by
  simp only [State.matv, setMatv_status]
  rw [getLsbD_setField _ _ _ _ (by omega), if_pos (by omega)]
  cases b <;> rfl

@[simp] theorem matv_setKerv (s : State) (b : Bool) : (s.setKerv b).matv = s.matv := by
  simp only [State.matv, setKerv_status]
  rw [getLsbD_setField _ _ _ _ (by omega), if_neg (by omega)]

@[simp] theorem code_setKerv (s : State) (b : Bool) : (s.setKerv b).code = s.code := by
  simp only [State.code, setKerv_status]
  rw [extractLsb'_setField_of_disjoint _ _ _ _ _ (by omega) (by omega)]

@[simp] theorem kerv_setCode (s : State) (c : Nat) : (s.setCode c).kerv = s.kerv := by
  simp only [State.kerv, setCode_status]
  rw [getLsbD_setField _ _ _ _ (by omega), if_neg (by omega)]

@[simp] theorem kerv_setFatal (s : State) (b : Bool) : (s.setFatal b).kerv = s.kerv := by
  simp only [State.kerv, setFatal_status]
  rw [getLsbD_setField _ _ _ _ (by omega), if_neg (by omega)]

@[simp] theorem kerv_setPmodv (s : State) (b : Bool) : (s.setPmodv b).kerv = s.kerv := by
  simp only [State.kerv, setPmodv_status]
  rw [getLsbD_setField _ _ _ _ (by omega), if_neg (by omega)]

@[simp] theorem kerv_setImodv (s : State) (b : Bool) : (s.setImodv b).kerv = s.kerv := by
  simp only [State.kerv, setImodv_status]
  rw [getLsbD_setField _ _ _ _ (by omega), if_neg (by omega)]

@[simp] theorem kerv_setMatv (s : State) (b : Bool) : (s.setMatv b).kerv = s.kerv := by
  simp only [State.kerv, setMatv_status]
  rw [getLsbD_setField _ _ _ _ (by omega), if_neg (by omega)]

@[simp] theorem kerv_setKerv (s : State) (b : Bool) : (s.setKerv b).kerv = b := by
  simp only [State.kerv, setKerv_status]
  rw [getLsbD_setField _ _ _ _ (by omega), if_pos (by omega)]
  cases b <;> rfl

@[simp] theorem code_set (s : State) (r : Reg) (v : Word) : (s.set r v).code = s.code := rfl
@[simp] theorem code_stick (s : State) (c : Nat) : (s.stick c).code = s.code := rfl
@[simp] theorem code_setBank (s : State) (b : BankName) (m : Bank) : (s.setBank b m).code = s.code := by
  cases b <;> rfl
@[simp] theorem fatal_set (s : State) (r : Reg) (v : Word) : (s.set r v).fatal = s.fatal := rfl
@[simp] theorem fatal_stick (s : State) (c : Nat) : (s.stick c).fatal = s.fatal := rfl
@[simp] theorem fatal_setBank (s : State) (b : BankName) (m : Bank) : (s.setBank b m).fatal = s.fatal := by
  cases b <;> rfl
@[simp] theorem pmodv_set (s : State) (r : Reg) (v : Word) : (s.set r v).pmodv = s.pmodv := rfl
@[simp] theorem pmodv_stick (s : State) (c : Nat) : (s.stick c).pmodv = s.pmodv := rfl
@[simp] theorem pmodv_setBank (s : State) (b : BankName) (m : Bank) : (s.setBank b m).pmodv = s.pmodv := by
  cases b <;> rfl
@[simp] theorem imodv_set (s : State) (r : Reg) (v : Word) : (s.set r v).imodv = s.imodv := rfl
@[simp] theorem imodv_stick (s : State) (c : Nat) : (s.stick c).imodv = s.imodv := rfl
@[simp] theorem imodv_setBank (s : State) (b : BankName) (m : Bank) : (s.setBank b m).imodv = s.imodv := by
  cases b <;> rfl
@[simp] theorem matv_set (s : State) (r : Reg) (v : Word) : (s.set r v).matv = s.matv := rfl
@[simp] theorem matv_stick (s : State) (c : Nat) : (s.stick c).matv = s.matv := rfl
@[simp] theorem matv_setBank (s : State) (b : BankName) (m : Bank) : (s.setBank b m).matv = s.matv := by
  cases b <;> rfl
@[simp] theorem kerv_set (s : State) (r : Reg) (v : Word) : (s.set r v).kerv = s.kerv := rfl
@[simp] theorem kerv_stick (s : State) (c : Nat) : (s.stick c).kerv = s.kerv := rfl
@[simp] theorem kerv_setBank (s : State) (b : BankName) (m : Bank) : (s.setBank b m).kerv = s.kerv := by
  cases b <;> rfl

/-! ## After a failure -/

@[simp] theorem code_raise (e : ErrCode) (s : State) : (raise e s).code = e.num := by
  show ((s.setCode e.num).stick e.num).code = e.num
  simp [Nat.mod_eq_of_lt e.num_lt]

@[simp] theorem code_fatal (f : FatalCode) (s : State) : (fatal f s).code = f.num := by
  show (((s.setCode f.num).setFatal true).stick f.num).code = f.num
  simp [Nat.mod_eq_of_lt f.num_lt]

@[simp] theorem fatal_fatal (f : FatalCode) (s : State) : (fatal f s).fatal = true := by
  show (((s.setCode f.num).setFatal true).stick f.num).fatal = true
  simp

@[simp] theorem fatal_raise (e : ErrCode) (s : State) : (raise e s).fatal = s.fatal := by
  show ((s.setCode e.num).stick e.num).fatal = s.fatal
  simp

@[simp] theorem pmodv_raise (e : ErrCode) (s : State) : (raise e s).pmodv = s.pmodv := by
  show ((s.setCode e.num).stick e.num).pmodv = s.pmodv
  simp

@[simp] theorem pmodv_fatal (f : FatalCode) (s : State) : (fatal f s).pmodv = s.pmodv := by
  show (((s.setCode f.num).setFatal true).stick f.num).pmodv = s.pmodv
  simp

@[simp] theorem imodv_raise (e : ErrCode) (s : State) : (raise e s).imodv = s.imodv := by
  show ((s.setCode e.num).stick e.num).imodv = s.imodv
  simp

@[simp] theorem imodv_fatal (f : FatalCode) (s : State) : (fatal f s).imodv = s.imodv := by
  show (((s.setCode f.num).setFatal true).stick f.num).imodv = s.imodv
  simp

@[simp] theorem matv_raise (e : ErrCode) (s : State) : (raise e s).matv = s.matv := by
  show ((s.setCode e.num).stick e.num).matv = s.matv
  simp

@[simp] theorem matv_fatal (f : FatalCode) (s : State) : (fatal f s).matv = s.matv := by
  show (((s.setCode f.num).setFatal true).stick f.num).matv = s.matv
  simp

@[simp] theorem kerv_raise (e : ErrCode) (s : State) : (raise e s).kerv = s.kerv := by
  show ((s.setCode e.num).stick e.num).kerv = s.kerv
  simp

@[simp] theorem kerv_fatal (f : FatalCode) (s : State) : (fatal f s).kerv = s.kerv := by
  show (((s.setCode f.num).setFatal true).stick f.num).kerv = s.kerv
  simp

/-! ## The packed dimension and factor-list registers -/

theorem rows_dimWord {r c : Nat} (hr : r ≤ 64) (_hc : c ≤ 64) : ((dimWord r c).extractLsb' 0 7).toNat = r := by
  simp [dimWord, BitVec.extractLsb'_toNat, Nat.shiftLeft_eq]
  omega

theorem cols_dimWord {r c : Nat} (hr : r ≤ 64) (hc : c ≤ 64) : ((dimWord r c).extractLsb' 8 7).toNat = c := by
  simp [dimWord, BitVec.extractLsb'_toNat, Nat.shiftLeft_eq, Nat.shiftRight_eq_div_pow]
  omega

theorem count_fstatWord {n k : Nat} {b : Bool} (hn : n ≤ 16) (_hk : k ≤ 2) :
    ((fstatWord n k b).extractLsb' 0 5).toNat = n := by
  cases b <;> simp [fstatWord, BitVec.extractLsb'_toNat, Nat.shiftLeft_eq] <;> omega

theorem kind_fstatWord {n k : Nat} {b : Bool} (hn : n ≤ 16) (hk : k ≤ 2) :
    ((fstatWord n k b).extractLsb' 8 2).toNat = k := by
  cases b <;> simp [fstatWord, BitVec.extractLsb'_toNat, Nat.shiftLeft_eq, Nat.shiftRight_eq_div_pow] <;> omega

theorem trivv_fstatWord {n k : Nat} {b : Bool} (hn : n ≤ 16) (hk : k ≤ 2) :
    (fstatWord n k b).getLsbD 16 = b := by
  have h : (fstatWord n k b).getLsbD 16 = ((fstatWord n k b).toNat / 2 ^ 16 % 2 == 1) := by
    rw [← BitVec.testBit_toNat, Nat.testBit_eq_decide_div_mod_eq]
    rfl
  rw [h]
  cases b <;> simp [fstatWord, Nat.shiftLeft_eq] <;> omega

end Sys2Proof.Machine
end

