-- ==== Sys2Proof/Laws/Ops.lean ====
section
/-! SUPPORT. What each shared operation can do: registers, bank cells (20_memory.md R61), and the ways a command ends
(60_exceptions.md R283, R284, R290). -/

namespace Sys2Proof.Machine

/-! ## Operand registers -/

theorem get_set (s : State) (r r' : Reg) (v : Word) : (s.set r v).get r' = if r' = r then v else s.get r' := by
  simp only [State.get, State.set, Vector.getElem_set]
  by_cases h : r' = r
  · simp [h]
  · have : r.toNat ≠ r'.toNat := fun e => h (BitVec.eq_of_toNat_eq e.symm)
    simp [h, this]

@[simp] theorem get_set_same (s : State) (r : Reg) (v : Word) : (s.set r v).get r = v := by simp [get_set]

theorem get_set_of_ne (s : State) {r r' : Reg} (v : Word) (h : r' ≠ r) : (s.set r v).get r' = s.get r' := by
  simp [get_set, h]

/-- Registers are equal when every register reads equal. -/
theorem x_eq_of_get {s t : State} (h : ∀ r : Reg, t.get r = s.get r) : t.x = s.x := by
  apply Vector.ext
  intro i hi
  have := h (BitVec.ofNat 4 i)
  simpa [State.get, Nat.mod_eq_of_lt hi] using this

/-- Writes to different registers commute. -/
theorem set_comm (s : State) {r r' : Reg} (v v' : Word) (h : r ≠ r') :
    (s.set r v).set r' v' = (s.set r' v').set r v := by
  have : r.toNat ≠ r'.toNat := fun e => h (BitVec.eq_of_toNat_eq e)
  simp only [State.set]
  rw [Vector.set_comm _ _ this]

theorem u64_lt (s : State) (r : Reg) : s.u64 r < 2 ^ 64 := (s.get r).isLt

theorem s64_lt (s : State) (r : Reg) : s.s64 r < 2 ^ 63 := by
  have := BitVec.toInt_lt (x := s.get r)
  simpa [State.s64] using this

theorem le_s64 (s : State) (r : Reg) : -2 ^ 63 ≤ s.s64 r := by
  have := BitVec.le_toInt (s.get r)
  simpa [State.s64] using this

/-! ## Bank cells -/

theorem bankRead_of_lt {b : Bank} {i : Nat} (h : ∀ e ∈ b, i < e.1) : bankRead b i = 0 := by
  induction b with
  | nil => rfl
  | cons e t ih =>
    have he := h e (by simp)
    rw [bankRead, if_neg (by omega), ih fun x hx => h x (by simp [hx])]

theorem bankWf.tail {cap : Nat} {e : Nat × Word} {t : Bank} (h : bankWf cap (e :: t)) : bankWf cap t :=
  ⟨(List.pairwise_cons.mp h.1).2, fun x hx => h.2 x (List.mem_cons_of_mem _ hx)⟩

theorem bankWf.head_lt {cap : Nat} {e : Nat × Word} {t : Bank} (h : bankWf cap (e :: t)) :
    ∀ x ∈ t, e.1 < x.1 := fun x hx =>
  (List.pairwise_cons.mp h.1).1 x.1 (List.mem_map_of_mem (f := Prod.fst) hx)

theorem bankWf.cons {cap : Nat} {e : Nat × Word} {t : Bank} (h : bankWf cap t) (h1 : ∀ x ∈ t, e.1 < x.1)
    (h2 : e.1 < cap) (h3 : e.2 ≠ 0) : bankWf cap (e :: t) :=
  ⟨List.pairwise_cons.mpr ⟨fun i hi => by
      obtain ⟨x, hx, rfl⟩ := List.mem_map.mp hi
      exact h1 x hx, h.1⟩, fun x hx => by
    rcases List.mem_cons.mp hx with rfl | hx
    · exact ⟨h2, h3⟩
    · exact h.2 x hx⟩

theorem bankWf_nil (cap : Nat) : bankWf cap [] := ⟨List.Pairwise.nil, by simp⟩

/-- The indices a write leaves in an array are among the old ones and the one written. -/
theorem mem_bankWrite {b : Bank} {i : Nat} {v : Word} {e : Nat × Word} (h : e ∈ bankWrite b i v) :
    e ∈ b ∨ e = (i, v) ∧ v ≠ 0 := by
  induction b with
  | nil =>
    simp only [bankWrite] at h
    split at h <;> simp_all
  | cons a t ih =>
    obtain ⟨j, u⟩ := a
    simp only [bankWrite] at h
    split at h
    · split at h
      · exact .inl h
      · rcases List.mem_cons.mp h with rfl | h
        · exact .inr ⟨rfl, by assumption⟩
        · exact .inl h
    · split at h
      · split at h
        · exact .inl (List.mem_cons_of_mem _ h)
        · rcases List.mem_cons.mp h with rfl | h
          · exact .inr ⟨rfl, by assumption⟩
          · exact .inl (List.mem_cons_of_mem _ h)
      · rcases List.mem_cons.mp h with rfl | h
        · exact .inl (by simp)
        · exact (ih h).imp_left (List.mem_cons_of_mem _)

/-- A write keeps the canonical form. -/
theorem bankWf_bankWrite {cap : Nat} {b : Bank} (h : bankWf cap b) {i : Nat} (hi : i < cap) (v : Word) :
    bankWf cap (bankWrite b i v) := by
  induction b with
  | nil =>
    simp only [bankWrite]
    split
    · exact bankWf_nil _
    · exact (bankWf_nil _).cons (by simp) hi (by assumption)
  | cons a t ih =>
    obtain ⟨j, u⟩ := a
    have ht := h.head_lt
    have hju := h.2 (j, u) (by simp)
    simp only [bankWrite]
    split
    next hij =>
      split
      · exact h
      · refine h.cons (fun x hx => ?_) hi (by assumption)
        rcases List.mem_cons.mp hx with rfl | hx
        · exact hij
        · exact lt_trans hij (ht x hx)
    next hij =>
      split
      next he =>
        split
        · exact h.tail
        · exact h.tail.cons (fun x hx => by subst he; exact ht x hx) hi (by assumption)
      next he =>
        refine (ih h.tail).cons (fun x hx => ?_) hju.1 hju.2
        rcases mem_bankWrite hx with hx | ⟨rfl, -⟩
        · exact ht x hx
        · simp only at hij he ⊢; omega

/-- A write is read back, and leaves every other index alone. -/
theorem bankRead_bankWrite {cap : Nat} {b : Bank} (h : bankWf cap b) (i k : Nat) (v : Word) :
    bankRead (bankWrite b i v) k = if k = i then v else bankRead b k := by
  induction b with
  | nil =>
    simp only [bankWrite]
    split
    next hv => by_cases hk : k = i <;> simp [bankRead, hk, hv]
    · by_cases hk : k = i <;> simp [bankRead, hk]
  | cons a t ih =>
    obtain ⟨j, u⟩ := a
    have ht := h.head_lt
    simp only [bankWrite]
    split
    next hij =>
      have h0 : bankRead ((j, u) :: t) i = 0 := bankRead_of_lt fun e he => by
        rcases List.mem_cons.mp he with rfl | he
        · exact hij
        · exact lt_trans hij (ht e he)
      split
      next hv =>
        by_cases hk : k = i
        · subst hk; rw [h0, if_pos rfl, hv]
        · rw [if_neg hk]
      · rw [bankRead]
    next hij =>
      split
      next he =>
        subst he
        split
        next hv =>
          by_cases hk : k = i
          · subst hk
            rw [if_pos rfl, hv]
            exact bankRead_of_lt ht
          · rw [if_neg hk, bankRead, if_neg hk]
        · by_cases hk : k = i <;> simp [bankRead, hk]
      next he =>
        rw [bankRead, ih h.tail, bankRead]
        by_cases hkj : k = j
        · subst hkj
          rw [if_pos rfl, if_neg (fun e => he e.symm), if_pos rfl]
        · rw [if_neg hkj, if_neg hkj]

theorem Memory.wf_bank {s : State} (h : Memory.wf s) (b : BankName) : bankWf b.cap (s.bank b) := by
  cases b
  exacts [h.1, h.2.1, h.2.2.1, h.2.2.2]

theorem Memory.wf_setBank {s : State} (h : Memory.wf s) {b : BankName} {m : Bank} (hm : bankWf b.cap m) :
    Memory.wf (s.setBank b m) := by
  cases b
  exacts [⟨hm, h.2.1, h.2.2.1, h.2.2.2⟩, ⟨h.1, hm, h.2.2.1, h.2.2.2⟩, ⟨h.1, h.2.1, hm, h.2.2.2⟩,
    ⟨h.1, h.2.1, h.2.2.1, hm⟩]

theorem Memory.wf_reset : Memory.wf State.reset := ⟨bankWf_nil _, bankWf_nil _, bankWf_nil _, bankWf_nil _⟩

@[simp] theorem bank_setBank_same (s : State) (b : BankName) (m : Bank) : (s.setBank b m).bank b = m := by
  cases b <;> rfl

theorem bank_setBank_of_ne (s : State) {b b' : BankName} (m : Bank) (h : b' ≠ b) :
    (s.setBank b m).bank b' = s.bank b' := by
  cases b <;> cases b' <;> first | rfl | exact absurd rfl h

@[simp] theorem setBank_setBank (s : State) (b : BankName) (m m' : Bank) :
    (s.setBank b m).setBank b m' = s.setBank b m' := by
  cases b <;> rfl

theorem setBank_bank (s : State) (b : BankName) : s.setBank b (s.bank b) = s := by cases b <;> rfl

/-- MemRead answers the masked cell, exactly where the cell exists. -/
theorem memRead_eq {s : State} {b : BankName} {i n : Nat} (h : i < b.cap) :
    s.memRead b i n = .ok ((s.cell b i).toNat % 2 ^ n) := by
  rw [State.memRead, if_pos h, maskBits]

/-- MemWrite replaces one array, exactly where the cell exists. -/
theorem memWrite_eq {s : State} {b : BankName} {i n v : Nat} (h : i < b.cap) :
    s.memWrite b i n v =
      .ok (s.setBank b (bankWrite (s.bank b) i (BitVec.ofNat 64 (v % 2 ^ n)))) := by
  rw [State.memWrite, if_pos h, maskBits]

theorem memWrite_ok {s t : State} {b : BankName} {i n v : Nat} (h : s.memWrite b i n v = .ok t) :
    i < b.cap ∧ t = s.setBank b (bankWrite (s.bank b) i (BitVec.ofNat 64 (v % 2 ^ n))) := by
  unfold State.memWrite at h
  split at h
  · exact ⟨by assumption, by cases h; rfl⟩
  · cases h

/-- Reading as many cells as exist answers all of them, in order. -/
theorem memReadAll_eq {s : State} {b : BankName} {n : Nat} (k i : Nat) (h : i + k ≤ b.cap) :
    s.memReadAll b n k i = .ok ((List.range' i k).map fun j => (s.cell b j).toNat % 2 ^ n) := by
  induction k generalizing i with
  | zero => rfl
  | succ k ih =>
    rw [State.memReadAll, memRead_eq (by omega), ih (i + 1) (by omega)]
    rfl

/-- Everything storing a list can do: the list fits, one array is replaced, its canonical form is kept, the cells of
the list hold the masked values and the others what they held. -/
theorem memWriteAll_ok {b : BankName} {n : Nat} {vs : List Nat} {i : Nat} {s t : State}
    (h : State.memWriteAll b n vs i s = .ok t) (hw : bankWf b.cap (s.bank b)) :
    (vs = [] ∨ i + vs.length ≤ b.cap) ∧ ∃ m, t = s.setBank b m ∧ bankWf b.cap m ∧
      ∀ k, bankRead m k = if i ≤ k ∧ k < i + vs.length then BitVec.ofNat 64 (vs.getD (k - i) 0 % 2 ^ n)
        else bankRead (s.bank b) k := by
  induction vs generalizing i s with
  | nil =>
    cases h
    exact ⟨.inl rfl, t.bank b, (setBank_bank t b).symm, hw, fun k => by
      rw [if_neg (by simp only [List.length_nil]; omega)]⟩
  | cons v vs ih =>
    unfold State.memWriteAll at h
    split at h
    · cases h
    next s' hs =>
      obtain ⟨hi, rfl⟩ := memWrite_ok hs
      have hw' := bankWf_bankWrite hw hi (BitVec.ofNat 64 (v % 2 ^ n))
      obtain ⟨hl, m, rfl, hm, hr⟩ := ih h (by simpa using hw')
      refine ⟨.inr ?_, m, by simp, hm, fun k => ?_⟩
      · rcases hl with rfl | hl
        · simpa using hi
        · simp only [List.length_cons]; omega
      · rw [hr k, bank_setBank_same, bankRead_bankWrite hw]
        simp only [List.length_cons]
        by_cases h1 : i + 1 ≤ k ∧ k < i + 1 + vs.length
        · obtain ⟨d, rfl⟩ : ∃ d, k = i + 1 + d := ⟨k - (i + 1), by omega⟩
          have e1 : i + 1 + d - (i + 1) = d := by omega
          have e2 : i + 1 + d - i = d + 1 := by omega
          rw [if_pos h1, if_pos (by omega), e1, e2, List.getD_cons_succ]
        · rw [if_neg h1]
          by_cases h2 : k = i
          · subst h2
            rw [if_pos rfl, if_pos (by omega)]
            simp
          · rw [if_neg h2, if_neg (by omega)]

/-- Storing a list that fits answers a next state. -/
theorem memWriteAll_exists {b : BankName} {n : Nat} (vs : List Nat) (i : Nat) (s : State)
    (h : i + vs.length ≤ b.cap) : ∃ t, State.memWriteAll b n vs i s = .ok t := by
  induction vs generalizing i s with
  | nil => exact ⟨s, rfl⟩
  | cons v vs ih =>
    simp only [List.length_cons] at h
    rw [State.memWriteAll, memWrite_eq (by omega)]
    exact ih (i + 1) _ (by omega)

/-! ## How a command ends -/

@[simp] theorem finish_ok (s s' : State) : finish s (.ok s') = .next (s'.setCode 0) := rfl
@[simp] theorem finish_fails (s : State) (e : ErrCode) : finish s (fails e) = .next (raise e s) := rfl
@[simp] theorem finish_err (s : State) (e : ErrCode) : finish s (.error (.err e)) = .next (raise e s) := rfl
@[simp] theorem finish_fatal (s : State) (f : FatalCode) :
    finish s (.error (.fatal f)) = .next (fatal f s) := rfl
@[simp] theorem finish_fault (s : State) (f : Fault) : finish s (.error (.fault f)) = .fault f := rfl

/-- Everything `finish` can do with a next state: success, a recoverable error or a fatal condition. -/
theorem finish_next {s t : State} {r : Result} (h : finish s r = .next t) :
    (∃ s', r = .ok s' ∧ t = s'.setCode 0) ∨ (∃ e, r = fails e ∧ t = raise e s) ∨
      ∃ f, r = .error (.fatal f) ∧ t = fatal f s := by
  match r, h with
  | .ok s', h => exact .inl ⟨s', rfl, by cases h; rfl⟩
  | .error (.err e), h => exact .inr (.inl ⟨e, rfl, by cases h; rfl⟩)
  | .error (.fatal f), h => exact .inr (.inr ⟨f, rfl, by cases h; rfl⟩)
  | .error (.fault f), h => cases h

@[simp] theorem onCell_ok {α : Type} (v : α) (k : α → Result) : onCell (.ok v) k = k v := rfl
@[simp] theorem onFatal_ok {α : Type} (v : α) (k : α → Result) : onFatal (.ok v) k = k v := rfl

theorem onCell_eq_ok {α : Type} {a : Except Fault α} {k : α → Result} {s : State} (h : onCell a k = .ok s) :
    ∃ v, a = .ok v ∧ k v = .ok s := by
  cases a with
  | ok v => exact ⟨v, rfl, h⟩
  | error f => cases h

theorem onFatal_eq_ok {α : Type} {a : Except FatalCode α} {k : α → Result} {s : State} (h : onFatal a k = .ok s) :
    ∃ v, a = .ok v ∧ k v = .ok s := by
  cases a with
  | ok v => exact ⟨v, rfl, h⟩
  | error f => cases h

@[simp] theorem needCtx_true (k : Result) : needCtx true k = k := rfl
@[simp] theorem needCtx_false (k : Result) : needCtx false k = fails .noctx := rfl

theorem needCtx_eq_ok {v : Bool} {k : Result} {s : State} (h : needCtx v k = .ok s) : v = true ∧ k = .ok s := by
  cases v
  · cases h
  · exact ⟨rfl, h⟩

theorem needIndex_of_lt {i : Int} {n : Nat} (k : Nat → Result) (h0 : 0 ≤ i) (h : i < n) :
    needIndex i n k = k i.toNat := by
  rw [needIndex, if_neg (by omega)]

theorem needIndex_of_out {i : Int} {n : Nat} (k : Nat → Result) (h : i < 0 ∨ (n : Int) ≤ i) :
    needIndex i n k = fails .index := by
  rw [needIndex, if_pos h]

theorem needIndex_eq_ok {i : Int} {n : Nat} {k : Nat → Result} {s : State} (h : needIndex i n k = .ok s) :
    0 ≤ i ∧ i < n ∧ k i.toNat = .ok s := by
  unfold needIndex at h
  split at h
  · cases h
  · exact ⟨by omega, by omega, h⟩

theorem needInt63_eq_ok {n : Nat} {k : Result} {s : State} (h : needInt63 n k = .ok s) :
    n < 2 ^ 63 ∧ k = .ok s := by
  unfold needInt63 at h
  split at h
  · cases h
  · exact ⟨by omega, h⟩

end Sys2Proof.Machine
end

