-- ==== Sys2Proof/Laws/Commands.lean ====
section
/-! SUPPORT. What each command can do at most: how it ends, and what it leaves alone. The proofs about all commands cite
this and do not open the meanings. -/

namespace Sys2Proof.Machine

/-- Storing a list replaces one array and changes nothing else. -/
theorem memWriteAll_frame {b : BankName} {n : Nat} {vs : List Nat} {i : Nat} {s t : State}
    (h : State.memWriteAll b n vs i s = .ok t) : ∃ m, t = s.setBank b m := by
  induction vs generalizing i s with
  | nil => cases h; exact ⟨_, (setBank_bank t b).symm⟩
  | cons v vs ih =>
    unfold State.memWriteAll at h
    split at h
    · cases h
    next s' hs =>
      obtain ⟨-, rfl⟩ := memWrite_ok hs
      obtain ⟨m, rfl⟩ := ih h
      exact ⟨m, by simp⟩

/-- Storing a cell replaces one array and changes nothing else. -/
theorem memWrite_frame {b : BankName} {n i v : Nat} {s t : State}
    (h : State.memWrite s b i n v = .ok t) : ∃ m, t = s.setBank b m := ⟨_, (memWrite_ok h).2⟩

/-- What a command does not change in the state it writes its results to: the registers but its destinations, the error
record, the inputs, and the contexts and banks of other commands (10_state.md R23, R31 to R35). -/
structure Keeps (i : Instr) (s t : State) : Prop where
  regs : ∀ r : Reg, r ∉ i.dests → t.get r = s.get r
  record : t.esticky = s.esticky ∧ t.ecmd = s.ecmd
  inputs : t.cmd = s.cmd ∧ t.hostq = s.hostq ∧ t.reply = s.reply ∧ t.resetLine = s.resetLine ∧ t.drawn = s.drawn ∧
    t.rnd = s.rnd ∧ t.search = s.search
  pmod : i.opcode ≠ 0x40 → t.pmod = s.pmod ∧ t.pmodv = s.pmodv
  imod : i.opcode ≠ 0x60 → t.imod = s.imod ∧ t.imodv = s.imodv
  mat : i.opcode ∉ [0x10, 0x11, 0x15, 0x16, 0x18, 0x30] → t.mat = s.mat ∧ t.mdim = s.mdim ∧ t.matv = s.matv
  ker : i.opcode ≠ 0x1A → t.ker = s.ker ∧ t.kdim = s.kdim ∧ t.kerv = s.kerv
  fac : i.opcode ∉ [0x31, 0x57] → t.facb = s.facb ∧ t.facm = s.facm ∧ t.fstat = s.fstat ∧ t.ftriv = s.ftriv

theorem Keeps.of_set {i : Instr} {s : State} (r : Reg) (v : Word) (h : r ∈ i.dests) : Keeps i s (s.set r v) := by
  refine ⟨fun q hq => get_set_of_ne _ _ (fun e => hq (e ▸ h)), ?_, ?_, ?_, ?_, ?_, ?_, ?_⟩ <;> simp

theorem Keeps.trans {i : Instr} {s t u : State} (h : Keeps i s t) (h' : Keeps i t u) : Keeps i s u := by
  obtain ⟨a1, a2, a8, a3, a4, a5, a6, a7⟩ := h
  obtain ⟨b1, b2, b8, b3, b4, b5, b6, b7⟩ := h'
  exact ⟨fun r hr => (b1 r hr).trans (a1 r hr), by simp_all, by simp_all, by simp_all, by simp_all,
    fun h => by simp [a5 h, b5 h], by simp_all, fun h => by simp [a7 h, b7 h]⟩

/-- Every command but the three that construct a context and can fail so, and PRANDIRR, is `finish` of a result that
keeps what the command does not own. -/
theorem exec_eq_finish (i : Instr) (s : State) (h1 : i.opcode ∉ [0x10, 0x40, 0x60, 0x35]) :
    ∃ r, exec i s = finish s r ∧ ∀ s', r = .ok s' → Keeps i s s' := by
  cases i <;> simp [Instr.opcode] at h1 <;> clear h1
  case msetrow a b =>
    refine ⟨_, rfl, fun s' h => ?_⟩
    have h := (needIndex_eq_ok (needCtx_eq_ok h).2).2.2
    obtain ⟨v, hv, hk⟩ := onCell_eq_ok h
    obtain ⟨m, rfl⟩ := memWrite_frame hv
    cases hk
    constructor <;> simp [Instr.opcode, Instr.dests, State.get]
  case bvset a b =>
    refine ⟨_, rfl, fun s' h => ?_⟩
    have h := (needIndex_eq_ok (needIndex_eq_ok (needCtx_eq_ok h).2).2.2).2.2
    obtain ⟨v, hv, hk⟩ := onCell_eq_ok h
    obtain ⟨v, hv, hk⟩ := onCell_eq_ok hk
    obtain ⟨m, rfl⟩ := memWrite_frame hv
    cases hk
    constructor <;> simp [Instr.opcode, Instr.dests, State.get]
  case bvtgl a b =>
    refine ⟨_, rfl, fun s' h => ?_⟩
    have h := (needIndex_eq_ok (needIndex_eq_ok (needCtx_eq_ok h).2).2.2).2.2
    obtain ⟨v, hv, hk⟩ := onCell_eq_ok h
    obtain ⟨v, hv, hk⟩ := onCell_eq_ok hk
    obtain ⟨m, rfl⟩ := memWrite_frame hv
    cases hk
    constructor <;> simp [Instr.opcode, Instr.dests, State.get]
  case mref =>
    refine ⟨_, rfl, fun s' h => ?_⟩
    obtain ⟨v, hv, hk⟩ := onCell_eq_ok (needCtx_eq_ok h).2
    obtain ⟨v, hv, hk⟩ := onCell_eq_ok hk
    obtain ⟨m, rfl⟩ := memWriteAll_frame hv
    cases hk
    constructor <;> simp [Instr.opcode, Instr.dests, State.get]
  case mker =>
    refine ⟨_, rfl, fun s' h => ?_⟩
    obtain ⟨v, hv, hk⟩ := onCell_eq_ok (needCtx_eq_ok h).2
    obtain ⟨v, hv, hk⟩ := onFatal_eq_ok hk
    obtain ⟨v, hv, hk⟩ := onCell_eq_ok hk
    obtain ⟨m, rfl⟩ := memWriteAll_frame hv
    cases hk
    constructor <;> simp [Instr.opcode, Instr.dests, State.get] <;> simp [State.pmodv, State.imodv, State.matv]
  case bkmat =>
    refine ⟨_, rfl, fun s' h => ?_⟩
    simp only at h
    split at h
    · cases h
    obtain ⟨v, hv, hk⟩ := onCell_eq_ok h
    obtain ⟨m, rfl⟩ := memWriteAll_frame hv
    cases hk
    constructor <;> simp [Instr.opcode, Instr.dests, State.get] <;> simp [State.pmodv, State.imodv, State.kerv]
  case pfactor =>
    refine ⟨_, rfl, fun s' h => ?_⟩
    obtain ⟨v, hv, hk⟩ := onFatal_eq_ok h
    obtain ⟨v, hv, hk⟩ := onCell_eq_ok hk
    obtain ⟨m, rfl⟩ := memWriteAll_frame hv
    obtain ⟨v, hv, hk⟩ := onCell_eq_ok hk
    obtain ⟨m, rfl⟩ := memWriteAll_frame hv
    cases hk
    constructor <;> simp [Instr.opcode, Instr.dests, State.get] <;> simp [State.pmodv, State.imodv, State.kerv, State.matv]
  case ifactor =>
    refine ⟨_, rfl, fun s' h => ?_⟩
    simp only at h
    split at h
    · cases h
    obtain ⟨v, hv, hk⟩ := onCell_eq_ok h
    obtain ⟨m, rfl⟩ := memWriteAll_frame hv
    obtain ⟨v, hv, hk⟩ := onCell_eq_ok hk
    obtain ⟨m, rfl⟩ := memWriteAll_frame hv
    cases hk
    constructor <;> simp [Instr.opcode, Instr.dests, State.get] <;> simp [State.pmodv, State.imodv, State.kerv, State.matv]
  all_goals
    first
    | refine ⟨_, rfl, fun s' h => ?_⟩
    | refine ⟨.ok _, rfl, fun s' h => ?_⟩
    try simp only [needCtx, needIndex, onCell, onFatal, fails, needInt63, needInverse, orderResult, setNat_eq_set, setInt_eq_set, setBool_eq_set] at h
    repeat' (first | (cases h; done) | split at h)
    all_goals
      cases h
      first
      | exact Keeps.of_set _ _ (by simp [Instr.dests])
      | exact (Keeps.of_set _ _ (by simp [Instr.dests])).trans (Keeps.of_set _ _ (by simp [Instr.dests]))
      | exact ((Keeps.of_set _ _ (by simp [Instr.dests])).trans (Keeps.of_set _ _ (by simp [Instr.dests]))).trans (Keeps.of_set _ _ (by simp [Instr.dests]))

/-- Everything PRANDIRR can do (42_f2polyfactor.md R167, R177; 70_reset_and_hazards.md R325). -/
theorem execPrandirr_next (rd rs1 : Reg) (s t : State) (h : exec (.prandirr rd rs1) s = .next t) :
    (t = raise .undef s) ∨ (∃ w rest, t = ({ s with rnd := rest, search := none }.set rd w).setCode 0) ∨
    (∃ f rest, t = fatal f { s with rnd := rest, search := none }) ∨
    (∃ d, 1 ≤ s.s64 rs1 ∧ s.s64 rs1 ≤ 63 ∧ d = (s.s64 rs1).toNat ∧ t = { s with rnd := [], search := some ⟨rd, d⟩ }) := by
  simp only [exec, execPrandirr] at h
  split at h
  · cases h; exact .inl rfl
  next hd =>
    right
    have key : ∀ ws : List Word, searchSupplied ⟨rd, (s.s64 rs1).toNat⟩ ws s = .next t →
      (∃ w rest, t = ({ s with rnd := rest, search := none }.set rd w).setCode 0) ∨
    (∃ f rest, t = fatal f { s with rnd := rest, search := none }) ∨
    (t = { s with rnd := [], search := some ⟨rd, (s.s64 rs1).toNat⟩ }) := by
      intro ws
      induction ws with
      | nil => intro h; cases h; exact .inr (.inr rfl)
      | cons w ws ih =>
        intro h
        unfold searchSupplied at h
        split at h
        · exact ih h
        next hne =>
          unfold searchDraw at h
          split at h
          · cases h; exact .inr (.inl ⟨_, _, rfl⟩)
          · cases h; exact .inl ⟨_, _, rfl⟩
          next hf => exact absurd hf (by simpa using hne)
    rcases key _ h with h | h | h
    · exact .inl h
    · exact .inr (.inl h)
    · exact .inr (.inr ⟨_, by omega, by omega, rfl, h⟩)

end Sys2Proof.Machine
end

