-- ==== Sys2Proof/Laws/Decode.lean ====
section
/-! SUPPORT. Packing and unpacking the fields of a command word (30_encoding.md R81), and what decoding an encoding comes
down to. -/

namespace Sys2Proof

/-- The fields of a packed word are the ones packed. -/
theorem Fields.ofWord_toWord (f : Fields) : Fields.ofWord f.toWord = f := by
  obtain ⟨op, rd, rd2, rd3, rs1, rs2, rs3⟩ := f
  simp only [Fields.ofWord, Fields.toWord, Fields.mk.injEq]
  refine ⟨?_, ?_, ?_, ?_, ?_, ?_, ?_⟩ <;>
  · apply BitVec.eq_of_getLsbD_eq
    intro i hi
    simp only [BitVec.getLsbD_extractLsb', BitVec.getLsbD_append, hi, decide_true, Bool.true_and]
    repeat' split
    all_goals first | omega | (congr 1; omega)

/-- A word is packed from its fields: the fields leave no bit of it out. -/
theorem Fields.toWord_ofWord (w : CmdWord) : (Fields.ofWord w).toWord = w := by
  apply BitVec.eq_of_getLsbD_eq
  intro i hi
  simp only [Fields.ofWord, Fields.toWord, BitVec.getLsbD_extractLsb', BitVec.getLsbD_append]
  repeat' split
  all_goals (rw [decide_eq_true (by omega), Bool.true_and]; congr 1; omega)

theorem high_encode (i : Instr) : (encode i).extractLsb' 32 32 = 0 := by
  apply BitVec.eq_of_getLsbD_eq
  intro k hk
  simp [encode, BitVec.getLsbD_extractLsb', BitVec.getLsbD_setWidth]

theorem low_encode (i : Instr) : (encode i).extractLsb' 0 32 = i.fields.toWord := by
  apply BitVec.eq_of_getLsbD_eq
  intro k hk
  simp [encode, BitVec.getLsbD_setWidth, hk]
  intro h
  omega

/-- Decoding an encoding is decoding the fields of the command. -/
theorem decode_encode_eq (i : Instr) : decode (encode i) = i.fields.decode := by
  rw [decode, if_pos (high_encode i), low_encode, Fields.ofWord_toWord]

end Sys2Proof
end

