-- ==== Sys2Proof/Laws/IntMath.lean ====
section
/-! SUPPORT. The shared loops and the integer helpers of 44_intarith.md compute what their rules name. -/

namespace Sys2Proof.Machine

/-- The loop of R210 with enough rounds. -/
theorem igcdLoop_eq {n u v : Nat} (h : v < n) : igcdLoop n u v = Nat.gcd u v := by
  induction n generalizing u v with
  | zero => omega
  | succ n ih =>
    rw [igcdLoop]
    split
    next h0 => subst h0; simp
    next h0 =>
      have := Nat.mod_lt u (Nat.pos_of_ne_zero h0)
      rw [ih (by omega), Nat.gcd_comm v, ← Nat.gcd_rec, Nat.gcd_comm]

/-- igcd is the greatest common divisor (R210). -/
theorem igcd_eq (a b : Int) : igcd a b = Int.gcd a b := igcdLoop_eq (Nat.lt_succ_self _)

/-- The first column of the loop of R211 is the loop of R210, and its rows stay combinations of the operands. -/
theorem ixgcdLoop_spec {n r0 r1 : Nat} {s0 t0 s1 t1 A B : Int} (h0 : (r0 : Int) = s0 * A + t0 * B)
    (h1 : (r1 : Int) = s1 * A + t1 * B) :
    let g := ixgcdLoop n r0 s0 t0 r1 s1 t1
    g.1 = igcdLoop n r0 r1 ∧ (g.1 : Int) = g.2.1 * A + g.2.2 * B := by
  induction n generalizing r0 s0 t0 r1 s1 t1 with
  | zero => exact ⟨rfl, h0⟩
  | succ n ih =>
    rw [ixgcdLoop, igcdLoop]
    split
    · exact ⟨rfl, h0⟩
    next h =>
      have e : r0 - r0 / r1 * r1 = r0 % r1 := by
        have := Nat.div_add_mod r0 r1
        rw [Nat.mul_comm]; omega
      have hq : ((r0 % r1 : Nat) : Int) = r0 - ((r0 / r1 : Nat) : Int) * r1 := by
        have := Nat.div_add_mod r0 r1
        have := congrArg (Nat.cast (R := Int)) this
        push_cast at this ⊢
        linarith
      simp only [e]
      refine ih h1 ?_
      rw [hq, h0, h1]
      ring

/-- ixgcd gives the greatest common divisor as a combination of its operands (R211). -/
theorem ixgcd_spec (a b : Int) :
    (ixgcd a b).1 = Int.gcd a b ∧ (ixgcd a b).2.1 * a + (ixgcd a b).2.2 * b = Int.gcd a b := by
  have sgn : ∀ z : Int, signOf z * z = z.natAbs := fun z => by unfold signOf; split <;> omega
  obtain ⟨h1, h2⟩ := ixgcdLoop_spec (n := b.natAbs + 1) (r0 := a.natAbs) (r1 := b.natAbs) (s0 := 1) (t0 := 0)
    (s1 := 0) (t1 := 1) (A := a.natAbs) (B := b.natAbs) (by ring) (by ring)
  rw [igcdLoop_eq (Nat.lt_succ_self _)] at h1
  refine ⟨h1, ?_⟩
  rw [show ((Int.gcd a b : Nat) : Int) = _ from (congrArg (Nat.cast (R := Int)) h1).symm.trans h2]
  simp only [ixgcd]
  rw [← sgn a, ← sgn b]
  ring

/-- phi counts the numbers coprime to n, as Euler's totient does (R213). -/
theorem countCoprime_eq (n k : Nat) : countCoprime n k = ((Finset.Icc 1 k).filter fun j => Nat.Coprime j n).card := by
  induction k with
  | zero => simp [countCoprime]
  | succ k ih =>
    rw [countCoprime, ih, ← Finset.insert_Icc_right_eq_Icc_add_one (by omega), Finset.filter_insert]
    have : igcd ((k + 1 : Nat) : Int) n = Nat.gcd (k + 1) n := by rw [igcd_eq, Int.gcd_natCast_natCast]
    rw [this]
    by_cases h : Nat.gcd (k + 1) n = 1
    · rw [if_pos h, if_pos h, Finset.card_insert_of_notMem (by simp)]
    · rw [if_neg h, if_neg h, add_zero]

theorem imodm_eq {m : Nat} (hm : 0 < m) (v : Int) : (imodm m v : Int) = v % m := by
  rw [imodm, Int.toNat_of_nonneg (Int.emod_nonneg _ (by omega))]

/-- Square-and-multiply modulo m is the power modulo m (R214). -/
theorem powLoop_mod (m n r b k : Nat) (hk : k ≤ n) (hr : r % m = r) :
    powLoop (fun a b => a * b % m) n r b k = r * b ^ k % m := by
  induction n generalizing r b k with
  | zero =>
    obtain rfl : k = 0 := by omega
    simp [powLoop, hr]
  | succ n ih =>
    rw [powLoop]
    split
    next h => subst h; simp [hr]
    next h =>
      have e : k = 2 * (k / 2) + k % 2 := by omega
      rw [ih _ _ _ (by omega) (by split <;> simp [hr])]
      have hb : ∀ c : Nat, c * (if 0 < k / 2 then b * b % m else b) ^ (k / 2) % m = c * (b * b) ^ (k / 2) % m := by
        intro c
        split
        · rw [Nat.mul_mod, Nat.pow_mod, Nat.mod_mod, ← Nat.pow_mod, ← Nat.mul_mod]
        next h0 =>
          have : k / 2 = 0 := by omega
          rw [this]; simp
      rw [hb]
      conv_rhs => rw [e, pow_add, pow_mul, pow_two]
      rcases Nat.mod_two_eq_zero_or_one k with h2 | h2
      · rw [h2]; simp
      · rw [h2, if_pos rfl, Nat.mul_mod, Nat.mod_mod, ← Nat.mul_mod]
        congr 1; ring

/-- The search answers the least candidate that passes. -/
theorem findUp_eq_some {test : Nat → Bool} {n u c : Nat} (h : findUp test n u = some c) :
    u ≤ c ∧ c < u + n ∧ test c = true ∧ ∀ j, u ≤ j → j < c → test j = false := by
  induction n generalizing u with
  | zero => cases h
  | succ n ih =>
    rw [findUp] at h
    split at h
    next ht =>
      cases h
      exact ⟨le_refl _, by omega, ht, fun j h1 h2 => by omega⟩
    next ht =>
      obtain ⟨h1, h2, h3, h4⟩ := ih h
      refine ⟨by omega, by omega, h3, fun j hj hc => ?_⟩
      rcases Nat.eq_or_lt_of_le hj with rfl | hj
      · simpa using ht
      · exact h4 j hj hc

/-- The search answers none exactly where no candidate passes. -/
theorem findUp_eq_none {test : Nat → Bool} {n u : Nat} (h : findUp test n u = none) :
    ∀ j, u ≤ j → j < u + n → test j = false := by
  induction n generalizing u with
  | zero => intro j h1 h2; omega
  | succ n ih =>
    rw [findUp] at h
    split at h
    · cases h
    next ht =>
      intro j h1 h2
      rcases Nat.eq_or_lt_of_le h1 with rfl | h1
      · simpa using ht
      · exact ih h j h1 (by omega)

end Sys2Proof.Machine
end

