-- ==== Sys2Proof/Laws/PerInstr.lean ====
section
/-! SUPPORT. The family EncodeFields: the fields of a well-formed command decode to that command, one lemma for each
constructor (30_encoding.md R81 to R85, R92). -/

namespace Sys2Proof.Laws.EncodeFields

/-- The fields a command is encoded with decode to it. -/
def Statement (i : Instr) : Prop := i.Wf → i.fields.decode = .ok i

theorem mnew (rs1 rs2 : Reg) : Statement (.mnew rs1 rs2) := fun _ => rfl

theorem msetrow (rs1 rs2 : Reg) : Statement (.msetrow rs1 rs2) := fun _ => rfl

theorem mgetrow (rd rs1 : Reg) : Statement (.mgetrow rd rs1) := fun _ => rfl

theorem kgetrow (rd rs1 : Reg) : Statement (.kgetrow rd rs1) := fun _ => rfl

theorem bvget (rd rs1 rs2 : Reg) : Statement (.bvget rd rs1 rs2) := fun _ => rfl

theorem bvset (rs1 rs2 : Reg) : Statement (.bvset rs1 rs2) := fun _ => rfl

theorem bvtgl (rs1 rs2 : Reg) : Statement (.bvtgl rs1 rs2) := fun _ => rfl

theorem bvlead (rd rs1 : Reg) : Statement (.bvlead rd rs1) := fun _ => rfl

theorem mref : Statement (.mref) := fun _ => rfl

theorem mrank (rd : Reg) : Statement (.mrank rd) := fun _ => rfl

theorem mker : Statement (.mker) := fun _ => rfl

theorem pdeg (rd rs1 : Reg) : Statement (.pdeg rd rs1) := fun _ => rfl

theorem padd (rd rs1 rs2 : Reg) : Statement (.padd rd rs1 rs2) := fun _ => rfl

theorem psub (rd rs1 rs2 : Reg) : Statement (.psub rd rs1 rs2) := fun _ => rfl

theorem pmul (rd rs1 rs2 : Reg) : Statement (.pmul rd rs1 rs2) := fun _ => rfl

theorem pquorem (rd rd2 rs1 rs2 : Reg) : Statement (.pquorem rd rd2 rs1 rs2) := by
  intro h
  have h : rd ≠ rd2 := by simpa [Instr.Wf, Instr.dests] using h
  exact if_neg h

theorem ppow (rd rs1 rs2 : Reg) : Statement (.ppow rd rs1 rs2) := fun _ => rfl

theorem pgcd (rd rs1 rs2 : Reg) : Statement (.pgcd rd rs1 rs2) := fun _ => rfl

theorem pxgcd (rd rd2 rd3 rs1 rs2 : Reg) : Statement (.pxgcd rd rd2 rd3 rs1 rs2) := by
  intro h
  have h : ¬ (rd = rd2 ∨ rd = rd3 ∨ rd2 = rd3) := by
    simp only [Instr.Wf, Instr.dests, List.nodup_cons, List.mem_cons, List.not_mem_nil] at h
    tauto
  exact if_neg h

theorem pderiv (rd rs1 : Reg) : Statement (.pderiv rd rs1) := fun _ => rfl

theorem psqrt (rd rd2 rs1 : Reg) : Statement (.psqrt rd rd2 rs1) := by
  intro h
  have h : rd ≠ rd2 := by simpa [Instr.Wf, Instr.dests] using h
  exact if_neg h

theorem bkmat (rs1 : Reg) : Statement (.bkmat rs1) := fun _ => rfl

theorem pfactor (rs1 : Reg) : Statement (.pfactor rs1) := fun _ => rfl

theorem fget (rd rd2 rs1 : Reg) : Statement (.fget rd rd2 rs1) := by
  intro h
  have h : rd ≠ rd2 := by simpa [Instr.Wf, Instr.dests] using h
  exact if_neg h

theorem pirr (rd rs1 : Reg) : Statement (.pirr rd rs1) := fun _ => rfl

theorem plowirr (rd rs1 : Reg) : Statement (.plowirr rd rs1) := fun _ => rfl

theorem prandirr (rd rs1 : Reg) : Statement (.prandirr rd rs1) := fun _ => rfl

theorem ptotient (rd rs1 : Reg) : Statement (.ptotient rd rs1) := fun _ => rfl

theorem pmsetmod (rs1 : Reg) : Statement (.pmsetmod rs1) := fun _ => rfl

theorem pmred (rd rs1 : Reg) : Statement (.pmred rd rs1) := fun _ => rfl

theorem pmadd (rd rs1 rs2 : Reg) : Statement (.pmadd rd rs1 rs2) := fun _ => rfl

theorem pmsub (rd rs1 rs2 : Reg) : Statement (.pmsub rd rs1 rs2) := fun _ => rfl

theorem pmmul (rd rs1 rs2 : Reg) : Statement (.pmmul rd rs1 rs2) := fun _ => rfl

theorem pmdiv (rd rs1 rs2 : Reg) : Statement (.pmdiv rd rs1 rs2) := fun _ => rfl

theorem pmrecip (rd rs1 : Reg) : Statement (.pmrecip rd rs1) := fun _ => rfl

theorem pmpow (rd rs1 rs2 : Reg) : Statement (.pmpow rd rs1 rs2) := fun _ => rfl

theorem pmnextu (rd rs1 : Reg) : Statement (.pmnextu rd rs1) := fun _ => rfl

theorem igcd (rd rs1 rs2 : Reg) : Statement (.igcd rd rs1 rs2) := fun _ => rfl

theorem ixgcd (rd rd2 rd3 rs1 rs2 : Reg) : Statement (.ixgcd rd rd2 rd3 rs1 rs2) := by
  intro h
  have h : ¬ (rd = rd2 ∨ rd = rd3 ∨ rd2 = rd3) := by
    simp only [Instr.Wf, Instr.dests, List.nodup_cons, List.mem_cons, List.not_mem_nil] at h
    tauto
  exact if_neg h

theorem ilcm (rd rs1 rs2 : Reg) : Statement (.ilcm rd rs1 rs2) := fun _ => rfl

theorem iphi (rd rs1 : Reg) : Statement (.iphi rd rs1) := fun _ => rfl

theorem imodexp (rd rs1 rs2 rs3 : Reg) : Statement (.imodexp rd rs1 rs2 rs3) := fun _ => rfl

theorem imodrecip (rd rs1 rs2 : Reg) : Statement (.imodrecip rd rs1 rs2) := fun _ => rfl

theorem ifact (rd rs1 : Reg) : Statement (.ifact rd rs1) := fun _ => rfl

theorem ifactor (rs1 : Reg) : Statement (.ifactor rs1) := fun _ => rfl

theorem idivnext (rd rs1 rs2 : Reg) : Statement (.idivnext rd rs1 rs2) := fun _ => rfl

theorem itotient (rd rs1 : Reg) : Statement (.itotient rd rs1) := fun _ => rfl

theorem imsetmod (rs1 : Reg) : Statement (.imsetmod rs1) := fun _ => rfl

theorem imred (rd rs1 : Reg) : Statement (.imred rd rs1) := fun _ => rfl

theorem imadd (rd rs1 rs2 : Reg) : Statement (.imadd rd rs1 rs2) := fun _ => rfl

theorem imsub (rd rs1 rs2 : Reg) : Statement (.imsub rd rs1 rs2) := fun _ => rfl

theorem immul (rd rs1 rs2 : Reg) : Statement (.immul rd rs1 rs2) := fun _ => rfl

theorem imdiv (rd rs1 rs2 : Reg) : Statement (.imdiv rd rs1 rs2) := fun _ => rfl

theorem imrecip (rd rs1 : Reg) : Statement (.imrecip rd rs1) := fun _ => rfl

theorem impow (rd rs1 rs2 : Reg) : Statement (.impow rd rs1 rs2) := fun _ => rfl

theorem imnextu (rd rs1 : Reg) : Statement (.imnextu rd rs1) := fun _ => rfl

theorem imorder (rd rs1 : Reg) : Statement (.imorder rd rs1) := fun _ => rfl

theorem pmorder (rd rs1 : Reg) : Statement (.pmorder rd rs1) := fun _ => rfl

theorem immaxord (rd : Reg) : Statement (.immaxord rd) := fun _ => rfl

theorem pmmaxord (rd : Reg) : Statement (.pmmaxord rd) := fun _ => rfl

theorem imgen (rd : Reg) : Statement (.imgen rd) := fun _ => rfl

theorem pmgen (rd : Reg) : Statement (.pmgen rd) := fun _ => rfl

theorem pprim (rd rs1 : Reg) : Statement (.pprim rd rs1) := fun _ => rfl

end Sys2Proof.Laws.EncodeFields
end

