-- ==== Sys2Proof/Laws/Poly.lean ====
section
/-! SUPPORT. The helpers of 41_f2poly.md compute in F2[x]: `polyOf` carries XOR, shift, clmul, pquorem, pgcd and pxgcd to
the sum, the product with a power of x, the product, the division and the greatest common divisor. -/

namespace Sys2Proof.Machine

open Polynomial

theorem two_eq_zero : (2 : (ZMod 2)[X]) = 0 := by exact_mod_cast CharP.cast_eq_zero (ZMod 2)[X] 2

/-- Bit j is the coefficient of x^j (00_scope.md R13). -/
theorem coeff_polyOf (a j : Nat) : (polyOf a).coeff j = if a.testBit j then 1 else 0 := by
  unfold polyOf
  rw [finsetSum_coeff]
  have h : ∀ k ∈ Finset.range (a.log2 + 1), ((if a.testBit k then (X : (ZMod 2)[X]) ^ k else 0).coeff j)
      = if k = j then (if a.testBit j then 1 else 0) else 0 := by
    intro k _
    by_cases hk : k = j
    · subst hk; split <;> simp
    · rw [if_neg hk]; split <;> simp [coeff_X_pow, Ne.symm hk]
  rw [Finset.sum_congr rfl h, Finset.sum_ite_eq']
  split
  · rfl
  next hj =>
    have : a.testBit j = false := by
      apply Nat.testBit_lt_two_pow
      have := Nat.lt_log2_self (n := a)
      refine lt_of_lt_of_le this (Nat.pow_le_pow_right (by omega) ?_)
      simpa using hj
    simp [this]

theorem polyOf_injective : Function.Injective polyOf := by
  intro a b h
  apply Nat.eq_of_testBit_eq
  intro j
  have := congrArg (coeff · j) h
  simp only [coeff_polyOf] at this
  cases ha : a.testBit j <;> cases hb : b.testBit j <;> simp_all

theorem polyOf_xor (a b : Nat) : polyOf (a ^^^ b) = polyOf a + polyOf b := by
  ext j
  rw [coeff_add, coeff_polyOf, coeff_polyOf, coeff_polyOf, Nat.testBit_xor]
  cases a.testBit j <;> cases b.testBit j <;> decide

@[simp] theorem polyOf_zero : polyOf 0 = 0 := by ext j; simp [coeff_polyOf]

@[simp] theorem polyOf_one : polyOf 1 = 1 := by
  ext j
  simp only [coeff_polyOf, coeff_one, Nat.testBit_one_eq_true_iff_self_eq_zero]

theorem polyOf_two : polyOf 2 = X := by
  ext j
  rw [coeff_polyOf, coeff_X]
  have : Nat.testBit 2 j = decide (1 = j) := by
    have := Nat.testBit_two_pow (n := 1) (m := j)
    simpa using this
  simp [this]

theorem polyOf_shiftLeft (a k : Nat) : polyOf (a <<< k) = polyOf a * X ^ k := by
  ext j
  rw [coeff_mul_X_pow', coeff_polyOf, Nat.testBit_shiftLeft]
  by_cases h : k ≤ j <;> simp [h, coeff_polyOf]

theorem polyOf_eq_zero {a : Nat} : polyOf a = 0 ↔ a = 0 :=
  ⟨fun h => polyOf_injective (h.trans polyOf_zero.symm), fun h => h ▸ polyOf_zero⟩

theorem polyOf_or_of_disjoint {a b : Nat} (h : a &&& b = 0) : polyOf (a ||| b) = polyOf a + polyOf b := by
  rw [← polyOf_xor]
  congr 1
  apply Nat.eq_of_testBit_eq
  intro j
  have := congrArg (Nat.testBit · j) h
  simp only [Nat.testBit_and, Nat.zero_testBit] at this
  rw [Nat.testBit_or, Nat.testBit_xor]
  cases ha : a.testBit j <;> cases hb : b.testBit j <;> simp_all

/-- deg is the degree of the polynomial, 0 for the zero polynomial (R130). -/
theorem natDegree_polyOf (a : Nat) : (polyOf a).natDegree = deg a := by
  by_cases h : a = 0
  · subst h; simp [deg]
  · apply natDegree_eq_of_le_of_coeff_ne_zero
    · rw [natDegree_le_iff_coeff_eq_zero]
      intro j hj
      rw [coeff_polyOf, Nat.testBit_lt_two_pow]
      · rfl
      · exact lt_of_lt_of_le Nat.lt_log2_self (Nat.pow_le_pow_right (by omega) hj)
    · rw [coeff_polyOf, deg, Nat.testBit_log2 h]
      simp

theorem lt_two_pow_of_deg_lt {a n : Nat} (h : deg a < n) : a < 2 ^ n :=
  lt_of_lt_of_le Nat.lt_log2_self (Nat.pow_le_pow_right (by omega) h)

theorem deg_lt_of_lt_two_pow {a n : Nat} (hn : 0 < n) (h : a < 2 ^ n) : deg a < n := by
  by_cases ha : a = 0
  · subst ha; simpa [deg] using hn
  · exact (Nat.log2_lt ha).mpr h

theorem polyOf_clmulUpTo (a b n : Nat) :
    polyOf (clmulUpTo a b n) = polyOf a * ∑ j ∈ Finset.range n, if b.testBit j then X ^ j else 0 := by
  induction n with
  | zero => simp [clmulUpTo]
  | succ n ih =>
    rw [clmulUpTo, polyOf_xor, ih, Finset.sum_range_succ, mul_add]
    congr 1
    split
    · rw [polyOf_shiftLeft]
    · simp

/-- clmul is the product in F2[x] (R132). -/
theorem polyOf_clmul (a b : Nat) : polyOf (clmul a b) = polyOf a * polyOf b := by
  rw [clmul, polyOf_clmulUpTo]; rfl

/-- What the division loop of R133 keeps, and where it ends. -/
theorem pdivLoop_spec {b : Nat} (hb : b ≠ 0) (n q r : Nat) (hq : ∀ j < n, q.testBit j = false)
    (hr : r < 2 ^ (deg b + n)) :
    let p := pdivLoop b (deg b) n q r
    polyOf p.1 * polyOf b + polyOf p.2 = polyOf q * polyOf b + polyOf r ∧ p.2 < 2 ^ deg b := by
  induction n generalizing q r with
  | zero => exact ⟨rfl, hr⟩
  | succ n ih =>
    have top : ∀ r' : Nat, r' < 2 ^ (deg b + (n + 1)) → r'.testBit (deg b + n) = false → r' < 2 ^ (deg b + n) := by
      intro r' h1 h2
      apply Nat.lt_pow_two_of_testBit
      intro j hj
      by_cases h : j = deg b + n
      · rw [h]; exact h2
      · exact Nat.testBit_lt_two_pow (lt_of_lt_of_le h1 (Nat.pow_le_pow_right (by omega) (by omega)))
    rw [pdivLoop]
    split
    next ht =>
      have hs : b <<< n < 2 ^ (deg b + (n + 1)) := by
        rw [Nat.shiftLeft_eq, show deg b + (n + 1) = (deg b + 1) + n by omega, Nat.pow_add]
        exact Nat.mul_lt_mul_of_pos_right Nat.lt_log2_self (by positivity)
      have hbt : (b <<< n).testBit (deg b + n) = true := by
        rw [Nat.testBit_shiftLeft]
        simp [deg, Nat.testBit_log2 hb]
      have hqn : q &&& (1 <<< n) = 0 := by
        apply Nat.eq_of_testBit_eq
        intro j
        rw [Nat.testBit_and, Nat.zero_testBit, Nat.one_shiftLeft, Nat.testBit_two_pow]
        by_cases hj : n = j
        · subst hj; simp [hq n (by omega)]
        · simp [hj]
      have := ih (q ||| (1 <<< n)) (r ^^^ (b <<< n))
        (fun j hj => by
          rw [Nat.testBit_or, hq j (by omega), Nat.one_shiftLeft, Nat.testBit_two_pow]
          simp; omega)
        (top _ (Nat.xor_lt_two_pow hr hs) (by rw [Nat.testBit_xor, ht, hbt]; rfl))
      refine ⟨this.1.trans ?_, this.2⟩
      rw [polyOf_or_of_disjoint hqn, polyOf_xor, polyOf_shiftLeft, polyOf_shiftLeft, polyOf_one, add_mul, one_mul]
      linear_combination (polyOf b * X ^ n) * two_eq_zero
    next ht =>
      exact ih q r (fun j hj => hq j (by omega)) (top r hr (by simpa using ht))

/-- A non-zero polynomial over GF(2) is monic. -/
theorem monic_of_ne_zero {p : (ZMod 2)[X]} (h : p ≠ 0) : p.Monic := by
  have h' : p.leadingCoeff ≠ 0 := leadingCoeff_ne_zero.mpr h
  have : ∀ z : ZMod 2, z ≠ 0 → z = 1 := by decide
  exact this _ h'

/-- Long division: the identity of R150, and the remainder below the degree of the divisor (R133). -/
theorem pquorem_spec (a : Nat) {b : Nat} (hb : b ≠ 0) :
    polyOf (pquorem a b).1 * polyOf b + polyOf (pquorem a b).2 = polyOf a ∧ (pquorem a b).2 < 2 ^ deg b := by
  unfold pquorem
  split
  next h => exact ⟨by simp, lt_two_pow_of_deg_lt h⟩
  next h =>
    have := pdivLoop_spec hb (deg a - deg b + 1) 0 a (by simp) (by
      rw [show deg b + (deg a - deg b + 1) = deg a + 1 by omega]; exact Nat.lt_log2_self)
    simpa using this

/-- The quotient and the remainder are those of F2[x] (R133). -/
theorem polyOf_pquorem (a : Nat) {b : Nat} (hb : b ≠ 0) :
    polyOf (pquorem a b).1 = polyOf a / polyOf b ∧ polyOf (pquorem a b).2 = polyOf a % polyOf b := by
  obtain ⟨h1, h2⟩ := pquorem_spec a hb
  have hb' : polyOf b ≠ 0 := fun h => hb (polyOf_eq_zero.mp h)
  have hd : (polyOf (pquorem a b).2).degree < (polyOf b).degree := by
    rw [degree_eq_natDegree hb', natDegree_polyOf]
    rw [degree_lt_iff_coeff_zero]
    intro j hj
    rw [coeff_polyOf, Nat.testBit_lt_two_pow (lt_of_lt_of_le h2 (Nat.pow_le_pow_right (by omega) (by exact_mod_cast hj)))]
    rfl
  have := div_modByMonic_unique (f := polyOf a) (g := polyOf b) (polyOf (pquorem a b).1) (polyOf (pquorem a b).2)
    (monic_of_ne_zero hb') ⟨by rw [← h1]; ring, hd⟩
  rw [div_def, mod_def, (monic_of_ne_zero hb').leadingCoeff]
  simp [this]

/-- The loop of R134 with enough rounds: its result has the common divisors of its operands. -/
theorem dvd_pgcdLoop {k n a b : Nat} (hb : b < 2 ^ k) (hn : k < n) (d : (ZMod 2)[X]) :
    d ∣ polyOf (pgcdLoop n a b) ↔ d ∣ polyOf a ∧ d ∣ polyOf b := by
  induction n generalizing k a b with
  | zero => omega
  | succ n ih =>
    rw [pgcdLoop]
    split
    next h => subst h; simp
    next h =>
      obtain ⟨h1, h2⟩ := pquorem_spec a h
      have hk : deg b < k := deg_lt_of_lt_two_pow (by
        rcases Nat.eq_zero_or_pos k with rfl | hk
        · simp at hb; exact absurd hb h
        · exact hk) hb
      rw [ih (k := deg b) (by exact h2) (by omega), ← h1, pmodp]
      constructor
      · rintro ⟨hd, hr⟩
        exact ⟨(hd.mul_left _).add hr, hd⟩
      · rintro ⟨ha, hd⟩
        exact ⟨hd, (dvd_add_right (hd.mul_left _)).mp ha⟩

/-- pgcd is the greatest common divisor in F2[x] (R134): its divisors are the common divisors. -/
theorem dvd_pgcd (a b : Nat) (d : (ZMod 2)[X]) : d ∣ polyOf (pgcd a b) ↔ d ∣ polyOf a ∧ d ∣ polyOf b :=
  dvd_pgcdLoop (k := deg b + 1) Nat.lt_log2_self (by omega) d

/-- The rows of the loop of R135 stay combinations of the operands, and its first column is the loop of R134. -/
theorem pxgcdLoop_spec {n r0 s0 t0 r1 s1 t1 : Nat} {A B : (ZMod 2)[X]}
    (h0 : polyOf r0 = polyOf s0 * A + polyOf t0 * B) (h1 : polyOf r1 = polyOf s1 * A + polyOf t1 * B) :
    let g := pxgcdLoop n r0 s0 t0 r1 s1 t1
    g.1 = pgcdLoop n r0 r1 ∧ polyOf g.1 = polyOf g.2.1 * A + polyOf g.2.2 * B := by
  induction n generalizing r0 s0 t0 r1 s1 t1 with
  | zero => exact ⟨rfl, h0⟩
  | succ n ih =>
    rw [pxgcdLoop, pgcdLoop]
    split
    · exact ⟨rfl, h0⟩
    next h =>
      refine ih h1 ?_
      have := (pquorem_spec r0 h).1
      rw [polyOf_xor, polyOf_xor, polyOf_clmul, polyOf_clmul]
      linear_combination this + h0 - polyOf (pquorem r0 r1).1 * h1 + (polyOf (pquorem r0 r1).1 * polyOf r1 - polyOf (pquorem r0 r1).1 * (polyOf s1 * A + polyOf t1 * B)- polyOf (pquorem r0 r1).1 * polyOf r1) * two_eq_zero

/-- pxgcd gives the greatest common divisor as a combination of its operands (R135). -/
theorem pxgcd_spec (a b : Nat) :
    (pxgcd a b).1 = pgcd a b ∧
      polyOf (pxgcd a b).1 = polyOf (pxgcd a b).2.1 * polyOf a + polyOf (pxgcd a b).2.2 * polyOf b :=
  pxgcdLoop_spec (by simp) (by simp)

/-- The unit test of R260 is coprimality in F2[x]. -/
theorem pgcd_eq_one_iff (a b : Nat) : pgcd a b = 1 ↔ IsCoprime (polyOf a) (polyOf b) := by
  constructor
  · intro h
    obtain ⟨h1, h2⟩ := pxgcd_spec a b
    rw [h1, h, polyOf_one] at h2
    exact ⟨_, _, h2.symm⟩
  · intro h
    have hd := (dvd_pgcd a b (polyOf (pgcd a b))).mp dvd_rfl
    have hu : IsUnit (polyOf (pgcd a b)) := h.isUnit_of_dvd' hd.1 hd.2
    have h0 : polyOf (pgcd a b) ≠ 0 := hu.ne_zero
    have := (monic_of_ne_zero h0).eq_one_of_isUnit hu
    exact polyOf_injective (this.trans polyOf_one.symm)

end Sys2Proof.Machine
end

