-- ==== Sys2Proof/Tests/Slice0.lean ====
section
/-! SUPPORT. Tests: the checks of WellFormed, decoding of words written out from the opcode map, one step of every
command on values the spec gives or that are worked out by hand from its rules, and for every statement with hypotheses
a concrete state and operands that meet them. -/

namespace Sys2Proof.Tests

open Sys2Proof Sys2Proof.Machine

set_option Elab.async false

/-! ## Helpers -/

/-- What a property of the next state is, if there is one. -/
def after {α : Type} (o : Out) (g : State → α) : Option α :=
  match o with
  | .next s => some (g s)
  | _ => none

/-- The state with words in some registers. -/
def regs (l : List (Reg × Word)) (s : State) : State := l.foldl (fun s p => s.set p.1 p.2) s

/-- A state with every context valid: M = x^4 + x + 1 and M = 11, the matrix of R114 and its kernel basis, the factor
list of 72, and the draws of the example of R177. -/
def rich : State := { State.reset with
  status := 0x1E00
  pmod := 0x13
  imod := 11
  mdim := 0x0403
  mat := [(0, 0x6), (1, 0xB), (2, 0xD)]
  kdim := 0x0402
  ker := [(0, 0x7), (1, 0x9)]
  fstat := 0x10202
  ftriv := 1
  facb := [(0, 2), (1, 3)]
  facm := [(0, 3), (1, 2)]
  rnd := [0x0, 0x2] }

/-- `rich` with another polynomial modulus. -/
def polyRing (m : Word) : State := { rich with pmod := m }

/-- `rich` with another integer modulus. -/
def intRing (m : Word) : State := { rich with imod := m }

/-- `rich` with words in x[1], x[2] and x[3]. -/
def with3 (a b c : Word) (s : State) : State := regs [(1, a), (2, b), (3, c)] s

/-- The block about to serve one transaction. -/
def serving (op : HostOp) (s : State) : State := { s with hostq := [op] }

/-! ## WellFormed: two equal destinations are refused (30_encoding.md R85) -/

theorem test_wf_pquorem_refused : ¬ (Instr.pquorem 3 3 1 2).Wf := by decide
theorem test_wf_pxgcd_refused : ¬ (Instr.pxgcd 1 2 2 4 5).Wf ∧ ¬ (Instr.pxgcd 2 1 2 4 5).Wf := by decide
theorem test_wf_psqrt_refused : ¬ (Instr.psqrt 0 0 1).Wf := by decide
theorem test_wf_fget_refused : ¬ (Instr.fget 15 15 1).Wf := by decide
theorem test_wf_ixgcd_refused : ¬ (Instr.ixgcd 3 3 5 1 2).Wf := by decide
theorem test_wf_destination_may_be_source : (Instr.pquorem 1 2 1 2).Wf ∧ (Instr.pmul 1 1 1).Wf := by decide

/-! ## Decode: op, operands and unused fields written out from 30_encoding.md R81 and R83 -/

theorem test_decode_matrix :
    decode 0x10000960 = .ok (.mnew 9 6) ∧
    decode 0x11000960 = .ok (.msetrow 9 6) ∧
    decode 0x12D00900 = .ok (.mgetrow 13 9) ∧
    decode 0x13D00900 = .ok (.kgetrow 13 9) ∧
    decode 0x14D00960 = .ok (.bvget 13 9 6) ∧
    decode 0x15000960 = .ok (.bvset 9 6) ∧
    decode 0x16000960 = .ok (.bvtgl 9 6) ∧
    decode 0x17D00900 = .ok (.bvlead 13 9) ∧
    decode 0x18000000 = .ok .mref ∧
    decode 0x19D00000 = .ok (.mrank 13) ∧
    decode 0x1A000000 = .ok .mker := by
  decide +kernel

theorem test_decode_poly :
    decode 0x20D00900 = .ok (.pdeg 13 9) ∧
    decode 0x21D00960 = .ok (.padd 13 9 6) ∧
    decode 0x22D00960 = .ok (.psub 13 9 6) ∧
    decode 0x23D00960 = .ok (.pmul 13 9 6) ∧
    decode 0x24DE0960 = .ok (.pquorem 13 14 9 6) ∧
    decode 0x25D00960 = .ok (.ppow 13 9 6) ∧
    decode 0x26D00960 = .ok (.pgcd 13 9 6) ∧
    decode 0x27DEF960 = .ok (.pxgcd 13 14 15 9 6) ∧
    decode 0x28D00900 = .ok (.pderiv 13 9) ∧
    decode 0x29DE0900 = .ok (.psqrt 13 14 9) := by
  decide +kernel

theorem test_decode_polyFactor :
    decode 0x30000900 = .ok (.bkmat 9) ∧
    decode 0x31000900 = .ok (.pfactor 9) ∧
    decode 0x32DE0900 = .ok (.fget 13 14 9) ∧
    decode 0x33D00900 = .ok (.pirr 13 9) ∧
    decode 0x34D00900 = .ok (.plowirr 13 9) ∧
    decode 0x35D00900 = .ok (.prandirr 13 9) ∧
    decode 0x36D00900 = .ok (.ptotient 13 9) := by
  decide +kernel

theorem test_decode_polyMod :
    decode 0x40000900 = .ok (.pmsetmod 9) ∧
    decode 0x41D00900 = .ok (.pmred 13 9) ∧
    decode 0x42D00960 = .ok (.pmadd 13 9 6) ∧
    decode 0x43D00960 = .ok (.pmsub 13 9 6) ∧
    decode 0x44D00960 = .ok (.pmmul 13 9 6) ∧
    decode 0x45D00960 = .ok (.pmdiv 13 9 6) ∧
    decode 0x46D00900 = .ok (.pmrecip 13 9) ∧
    decode 0x47D00960 = .ok (.pmpow 13 9 6) ∧
    decode 0x48D00900 = .ok (.pmnextu 13 9) := by
  decide +kernel

theorem test_decode_int :
    decode 0x50D00960 = .ok (.igcd 13 9 6) ∧
    decode 0x51DEF960 = .ok (.ixgcd 13 14 15 9 6) ∧
    decode 0x52D00960 = .ok (.ilcm 13 9 6) ∧
    decode 0x53D00900 = .ok (.iphi 13 9) ∧
    decode 0x54D0096A = .ok (.imodexp 13 9 6 10) ∧
    decode 0x55D00960 = .ok (.imodrecip 13 9 6) ∧
    decode 0x56D00900 = .ok (.ifact 13 9) ∧
    decode 0x57000900 = .ok (.ifactor 9) ∧
    decode 0x58D00960 = .ok (.idivnext 13 9 6) ∧
    decode 0x59D00900 = .ok (.itotient 13 9) := by
  decide +kernel

theorem test_decode_intMod :
    decode 0x60000900 = .ok (.imsetmod 9) ∧
    decode 0x61D00900 = .ok (.imred 13 9) ∧
    decode 0x62D00960 = .ok (.imadd 13 9 6) ∧
    decode 0x63D00960 = .ok (.imsub 13 9 6) ∧
    decode 0x64D00960 = .ok (.immul 13 9 6) ∧
    decode 0x65D00960 = .ok (.imdiv 13 9 6) ∧
    decode 0x66D00900 = .ok (.imrecip 13 9) ∧
    decode 0x67D00960 = .ok (.impow 13 9 6) ∧
    decode 0x68D00900 = .ok (.imnextu 13 9) := by
  decide +kernel

theorem test_decode_order :
    decode 0x70D00900 = .ok (.imorder 13 9) ∧
    decode 0x71D00900 = .ok (.pmorder 13 9) ∧
    decode 0x72D00000 = .ok (.immaxord 13) ∧
    decode 0x73D00000 = .ok (.pmmaxord 13) ∧
    decode 0x74D00000 = .ok (.imgen 13) ∧
    decode 0x75D00000 = .ok (.pmgen 13) ∧
    decode 0x76D00900 = .ok (.pprim 13 9) := by
  decide +kernel

/-- The illegal words of R84 to R87: each kind, at its edges. -/
theorem test_decode_illegal :
    decode 0x0F000000 = .error .reservedOp ∧ decode 0x1B000000 = .error .reservedOp ∧
    decode 0x77000000 = .error .reservedOp ∧ decode 0xFFFFFFFF = .error .reservedOp ∧
    decode 0x123300120 = .error .highBits ∧ decode 0xFFFFFFFFFFFFFFFF = .error .highBits ∧
    decode 0x20210100 = .error .unusedField ∧ decode 0x23300121 = .error .unusedField ∧
    decode 0x29220100 = .error .equalDests ∧ decode 0x27121450 = .error .equalDests := by
  decide +kernel

theorem test_table_word : decodeTableWord 32 0x23300120 = some (.pmul 3 1 2) ∧ decodeTableWord 32 0 = none := by
  decide +kernel

/-! ## The step and the host window -/

/-- Reset ends everything but the bank cells (R320). -/
theorem test_reset_step :
    after (step { rich with resetLine := true, search := some ⟨1, 4⟩ }) (fun t => (t.status, t.pmod, t.search)) =
      some (0, 0, none) := by
  decide +kernel

/-- A placed command is the one the next step runs: PMUL, then an illegal word. -/
theorem test_withFetchWord :
    after (step ((with3 0x13 0x7 0 State.reset).withFetchWord 32 0x23300120)) (·.get 3) = some 0x79 ∧
    after (step (State.reset.withFetchWord 32 0xFFFFFFFF)) (fun t => (t.status, t.esticky, t.ecmd, t.cmd)) =
      some (1, 2, 0xFFFFFFFF, 0xFFFFFFFF) := by
  decide +kernel

/-- R26, R67. -/
theorem test_host_read :
    after (step (serving (.read 0x14) rich)) (·.reply) = some 0x13 ∧
    after (step (serving (.read 0x1F) rich)) (·.reply) = some 0 := by
  decide +kernel

/-- Write-1-to-clear (R29), a read-only index (R68), and the fatal state (R75). -/
theorem test_host_write :
    after (step (serving (.write 0x12 0x4) { rich with esticky := 0x6 })) (·.esticky) = some 0x2 ∧
    after (step (serving (.write 0x14 5) rich)) (·.pmod) = some 0x13 ∧
    after (step (serving (.write 0x3 5) { rich with status := 0x120 })) (·.get 3) = some 0 := by
  decide +kernel

/-! ## BitVector and BitMatrix (40_bitvector_bitmatrix.md) -/

/-- R101: 3 by 4; 65 rows are refused and matv is cleared. -/
theorem test_mnew :
    after (exec (.mnew 1 2) (with3 3 4 0 rich)) (fun t => (t.mdim, t.cell .mat 0, t.matv)) = some (0x0403, 0, true) ∧
    after (exec (.mnew 1 2) (with3 65 4 0 rich)) (fun t => (t.mdim, t.code, t.matv)) = some (0x0403, 7, false) := by
  decide +kernel

/-- R102: bits at the width and above are dropped. -/
theorem test_msetrow :
    after (exec (.msetrow 1 2) (with3 0 0xF6 0 rich)) (fun t => (t.cell .mat 0, t.cell .mat 1)) = some (0x6, 0xB) ∧
    after (exec (.msetrow 1 2) (with3 3 0 0 rich)) (·.code) = some 6 := by
  decide +kernel

/-- R103. -/
theorem test_mgetrow :
    after (exec (.mgetrow 5 1) (with3 1 0 0 rich)) (·.get 5) = some 0xB ∧
    after (exec (.mgetrow 5 1) (with3 (-1) 0 0 rich)) (·.code) = some 6 := by
  decide +kernel

/-- R104. -/
theorem test_kgetrow :
    after (exec (.kgetrow 2 1) (with3 1 0 0 rich)) (·.get 2) = some 0x9 ∧
    after (exec (.kgetrow 2 1) (with3 2 0 0 rich)) (·.code) = some 6 := by
  decide +kernel

/-- R105. -/
theorem test_bvget :
    after (exec (.bvget 3 1 2) (with3 0 2 0 rich)) (·.get 3) = some 1 ∧
    after (exec (.bvget 3 1 2) (with3 0 4 0 rich)) (·.code) = some 6 := by
  decide +kernel

/-- R106. -/
theorem test_bvset :
    after (exec (.bvset 1 2) (with3 0 0 0 rich)) (·.cell .mat 0) = some 0x7 := by
  decide +kernel

/-- R107. -/
theorem test_bvtgl :
    after (exec (.bvtgl 1 2) (with3 0 1 0 rich)) (·.cell .mat 0) = some 0x4 := by
  decide +kernel

/-- R109: the lowest set bit; -1 for a zero row. -/
theorem test_bvlead :
    after (exec (.bvlead 3 1) (with3 2 0 0 { rich with mat := [(2, 0xC)] })) (·.get 3) = some 2 ∧
    after (exec (.bvlead 3 1) (with3 1 0 0 { rich with mat := [(2, 0xC)] })) (·.get 3) = some 0xFFFFFFFFFFFFFFFF := by
  decide +kernel

/-- R114. -/
theorem test_mref :
    after (exec .mref rich) (·.mat) = some [(0, 0xD), (1, 0x6)] := by
  decide +kernel

/-- R115. -/
theorem test_mrank :
    after (exec (.mrank 4) rich) (fun t => (t.get 4, t.mat)) = some (2, [(0, 0x6), (1, 0xB), (2, 0xD)]) := by
  decide +kernel

/-- R116. -/
theorem test_mker :
    after (exec .mker { rich with ker := [], kdim := 0, status := 0x800 }) (fun t => (t.ker, t.kdim, t.status)) =
      some ([(0, 0x7), (1, 0x9)], 0x0402, 0x1800) := by
  decide +kernel

/-! ## F2Poly (41_f2poly.md) -/

/-- R140. -/
theorem test_pdeg :
    after (exec (.pdeg 2 1) (with3 0x13 0 0 rich)) (·.get 2) = some 4 ∧
    after (exec (.pdeg 2 1) (with3 0 0 0 rich)) (·.get 2) = some 0 := by
  decide +kernel

/-- R141. -/
theorem test_padd :
    after (exec (.padd 3 1 2) (with3 0x13 0x7 0 rich)) (·.get 3) = some 0x14 := by
  decide +kernel

/-- R142. -/
theorem test_psub :
    after (exec (.psub 3 1 2) (with3 0x13 0x7 0 rich)) (·.get 3) = some 0x14 := by
  decide +kernel

/-- R143: a product of degree 62 fits, one of degree 64 does not. -/
theorem test_pmul :
    after (exec (.pmul 3 1 2) (with3 0xFFFFFFFF 0xFFFFFFFF 0 rich)) (·.get 3) = some 0x5555555555555555 ∧
    after (exec (.pmul 3 1 2) (with3 0x100000000 0x100000000 0 rich)) (·.code) = some 9 := by
  decide +kernel

/-- R144, with the destinations also the sources. -/
theorem test_pquorem :
    after (exec (.pquorem 1 2 1 2) (with3 0x1F 0x13 0 rich)) (fun t => (t.get 1, t.get 2)) = some (0x1, 0xC) ∧
    after (exec (.pquorem 3 4 1 2) (with3 0x1F 0 0 rich)) (·.code) = some 2 := by
  decide +kernel

/-- R145. -/
theorem test_ppow :
    after (exec (.ppow 3 1 2) (with3 0x3 5 0 rich)) (·.get 3) = some 0x33 ∧
    after (exec (.ppow 3 1 2) (with3 2 64 0 rich)) (·.code) = some 9 ∧
    after (exec (.ppow 3 1 2) (with3 0 (-1) 0 rich)) (·.code) = some 4 := by
  decide +kernel

/-- R146. -/
theorem test_pgcd :
    after (exec (.pgcd 3 1 2) (with3 0x3F 0x15 0 rich)) (·.get 3) = some 0x15 ∧
    after (exec (.pgcd 3 1 2) (with3 0x6 0x4 0 rich)) (·.get 3) = some 0x2 := by
  decide +kernel

/-- R147. -/
theorem test_pxgcd :
    after (exec (.pxgcd 3 4 5 1 2) (with3 0x13 0x7 0 rich)) (fun t => (t.get 3, t.get 4, t.get 5)) = some (0x1, 0x1, 0x6) := by
  decide +kernel

/-- R148. -/
theorem test_pderiv :
    after (exec (.pderiv 2 1) (with3 0x1F 0 0 rich)) (·.get 2) = some 0x5 := by
  decide +kernel

/-- R149. -/
theorem test_psqrt :
    after (exec (.psqrt 2 3 1) (with3 0x15 0 0 rich)) (fun t => (t.get 2, t.get 3)) = some (0x7, 1) ∧
    after (exec (.psqrt 2 3 1) (with3 0x13 0 0 rich)) (fun t => (t.get 2, t.get 3)) = some (0, 0) := by
  decide +kernel

/-! ## F2PolyFactor (42_f2polyfactor.md) -/

/-- R172; column filling (90_conflicts.md C1). -/
theorem test_bkmat :
    after (exec (.bkmat 1) (with3 0x16 0 0 State.reset)) (fun t => (t.mat, t.mdim)) = some ([(1, 0xE), (2, 0xA)], 0x0404) ∧
    after (exec (.bkmat 1) (with3 1 0 0 rich)) (·.code) = some 10 := by
  decide +kernel

/-- R173. -/
theorem test_pfactor :
    after (exec (.pfactor 1) (with3 0x3F 0 0 rich)) (fun t => (t.facb, t.facm, t.fstat, t.ftriv)) =
      some ([(0, 0x3), (1, 0x7)], [(0, 1), (1, 2)], 0x102, 0) ∧
    after (exec (.pfactor 1) (with3 1 0 0 rich)) (fun t => (t.fstat, t.ftriv)) = some (0x10100, 1) := by
  decide +kernel

/-- R174. -/
theorem test_fget :
    after (exec (.fget 2 3 1) (with3 1 0 0 rich)) (fun t => (t.get 2, t.get 3)) = some (3, 2) ∧
    after (exec (.fget 2 3 1) (with3 2 0 0 rich)) (·.code) = some 6 := by
  decide +kernel

/-- R175. -/
theorem test_pirr :
    after (exec (.pirr 2 1) (with3 0x11B 0 0 rich)) (·.get 2) = some 1 ∧
    after (exec (.pirr 2 1) (with3 0x4 2 0 rich)) (·.get 2) = some 0 := by
  decide +kernel

/-- R176. -/
theorem test_plowirr :
    after (exec (.plowirr 2 1) (with3 8 0 0 rich)) (·.get 2) = some 0x11B ∧
    after (exec (.plowirr 2 1) (with3 64 0 0 rich)) (·.code) = some 10 := by
  decide +kernel

/-- R177: the second draw gives an irreducible candidate; with no draw supplied the search goes on. -/
theorem test_prandirr :
    after (exec (.prandirr 2 1) (with3 4 0 0 rich)) (fun t => (t.get 2, t.rnd)) = some (0x13, []) ∧
    after (exec (.prandirr 2 1) (with3 4 0 0 { rich with rnd := [0x0] })) (fun t => (t.rnd, t.search)) =
      some ([], some ⟨2, 4⟩) := by
  decide +kernel

/-- R178. -/
theorem test_ptotient :
    after (exec (.ptotient 2 1) (with3 0x15 0 0 rich)) (·.get 2) = some 12 ∧
    after (exec (.ptotient 2 1) (with3 0x100 0 0 rich)) (·.get 2) = some 128 := by
  decide +kernel

/-! ## F2PolyMod (43_f2polymod.md) -/

/-- R193. -/
theorem test_pmsetmod :
    after (exec (.pmsetmod 1) (with3 0x13 0 0 State.reset)) (fun t => (t.pmod, t.status)) = some (0x13, 0x200) ∧
    after (exec (.pmsetmod 1) (with3 0 0 0 rich)) (fun t => (t.pmod, t.pmodv, t.code)) = some (0x13, false, 7) := by
  decide +kernel

/-- R194. -/
theorem test_pmred :
    after (exec (.pmred 2 1) (with3 0xFFFFFFFFFFFFFFFF 0 0 rich)) (·.get 2) = some 0xF := by
  decide +kernel

/-- R195. -/
theorem test_pmadd :
    after (exec (.pmadd 3 1 2) (with3 0x9 0xC 0 rich)) (·.get 3) = some 0x5 := by
  decide +kernel

/-- R196. -/
theorem test_pmsub :
    after (exec (.pmsub 3 1 2) (with3 0x9 0xC 0 rich)) (·.get 3) = some 0x5 := by
  decide +kernel

/-- R197: the exact product of up to 125 bits. -/
theorem test_pmmul :
    after (exec (.pmmul 3 1 2) (with3 0x7FFFFFFFFFFFFFFF 0x5555555555555555 0 (polyRing 0x8000000000000003))) (·.get 3) = some 0x6666666666666666 := by
  decide +kernel

/-- R198. -/
theorem test_pmdiv :
    after (exec (.pmdiv 3 1 2) (with3 0x7 0xB 0 rich)) (·.get 3) = some 0x8 ∧
    after (exec (.pmdiv 3 1 2) (with3 2 2 0 (polyRing 0x6))) (·.code) = some 3 := by
  decide +kernel

/-- R199. -/
theorem test_pmrecip :
    after (exec (.pmrecip 2 1) (with3 0x2 0 0 rich)) (·.get 2) = some 0x9 ∧
    after (exec (.pmrecip 2 1) (with3 0x13 0 0 rich)) (·.code) = some 2 := by
  decide +kernel

/-- R201. -/
theorem test_pmpow :
    after (exec (.pmpow 3 1 2) (with3 0x2 (-4) 0 rich)) (·.get 3) = some 0xE ∧
    after (exec (.pmpow 3 1 2) (with3 0x2 0x7FFFFFFFFFFFFFFF 0 (polyRing 0x8000000000000003))) (·.get 3) = some 1 := by
  decide +kernel

/-- R200. -/
theorem test_pmnextu :
    after (exec (.pmnextu 2 1) (with3 0x6 0 0 (polyRing 0x15))) (·.get 2) = some 0x8 ∧
    after (exec (.pmnextu 2 1) (with3 0xF 0 0 (polyRing 0x15))) (·.get 2) = some 0 := by
  decide +kernel

/-! ## IntArith and IntFactor (44_intarith.md) -/

/-- R221. -/
theorem test_igcd :
    after (exec (.igcd 3 1 2) (with3 (-12) 18 0 rich)) (·.get 3) = some 6 ∧
    after (exec (.igcd 3 1 2) (with3 0x8000000000000000 0 0 rich)) (·.code) = some 9 := by
  decide +kernel

/-- R222. -/
theorem test_ixgcd :
    after (exec (.ixgcd 3 4 5 1 2) (with3 240 46 0 rich)) (fun t => (t.get 3, t.get 4, t.get 5)) = some (2, -9, 47) ∧
    after (exec (.ixgcd 3 4 5 1 2) (with3 0x8000000000000000 3 0 rich)) (·.get 5) = some 3074457345618258603 := by
  decide +kernel

/-- R223. -/
theorem test_ilcm :
    after (exec (.ilcm 3 1 2) (with3 (-4) 6 0 rich)) (·.get 3) = some 12 ∧
    after (exec (.ilcm 3 1 2) (with3 0x4000000000000000 3 0 rich)) (·.code) = some 9 := by
  decide +kernel

/-- R224. -/
theorem test_iphi :
    after (exec (.iphi 2 1) (with3 72 0 0 rich)) (·.get 2) = some 24 ∧
    after (exec (.iphi 2 1) (with3 0 0 0 rich)) (·.code) = some 10 := by
  decide +kernel

/-- R225. -/
theorem test_imodexp :
    after (exec (.imodexp 4 1 2 3) (with3 3 200 13 rich)) (·.get 4) = some 9 ∧
    after (exec (.imodexp 4 1 2 3) (with3 (-2) 3 11 rich)) (·.get 4) = some 3 ∧
    after (exec (.imodexp 4 1 2 3) (with3 2 (-1) 0 rich)) (·.code) = some 2 := by
  decide +kernel

/-- R226. -/
theorem test_imodrecip :
    after (exec (.imodrecip 3 1 2) (with3 7 40 0 rich)) (·.get 3) = some 23 ∧
    after (exec (.imodrecip 3 1 2) (with3 6 9 0 rich)) (·.code) = some 3 := by
  decide +kernel

/-- R228. -/
theorem test_ifact :
    after (exec (.ifact 2 1) (with3 20 0 0 rich)) (·.get 2) = some 0x21C3677C82B40000 ∧
    after (exec (.ifact 2 1) (with3 21 0 0 rich)) (·.code) = some 9 := by
  decide +kernel

/-- R229. -/
theorem test_ifactor :
    after (exec (.ifactor 1) (with3 (-72) 0 0 State.reset)) (fun t => (t.facb, t.facm, t.fstat, t.ftriv)) =
      some ([(0, 2), (1, 3)], [(0, 3), (1, 2)], 0x10202, -1) := by
  decide +kernel

/-- R227. -/
theorem test_idivnext :
    after (exec (.idivnext 3 1 2) (with3 72 12 0 rich)) (·.get 3) = some 18 ∧
    after (exec (.idivnext 3 1 2) (with3 72 72 5 rich)) (·.get 3) = some 0 := by
  decide +kernel

/-- R230. -/
theorem test_itotient :
    after (exec (.itotient 2 1) (with3 0x100000000 0 0 rich)) (·.get 2) = some 2147483648 := by
  decide +kernel

/-! ## IntMod (45_intmod.md) -/

/-- R241. -/
theorem test_imsetmod :
    after (exec (.imsetmod 1) (with3 11 0 0 State.reset)) (fun t => (t.imod, t.status)) = some (11, 0x400) ∧
    after (exec (.imsetmod 1) (with3 (-1) 0 0 rich)) (fun t => (t.imod, t.imodv, t.code)) = some (11, false, 7) := by
  decide +kernel

/-- R242. -/
theorem test_imred :
    after (exec (.imred 2 1) (with3 0x8000000000000000 0 0 rich)) (·.get 2) = some 3 := by
  decide +kernel

/-- R243: the sum is exact before the reduction. -/
theorem test_imadd :
    after (exec (.imadd 3 1 2) (with3 9223372036854775782 9223372036854775782 0 (intRing 9223372036854775783))) (·.get 3) = some 9223372036854775781 := by
  decide +kernel

/-- R244. -/
theorem test_imsub :
    after (exec (.imsub 3 1 2) (with3 3 7 0 rich)) (·.get 3) = some 7 := by
  decide +kernel

/-- R245. -/
theorem test_immul :
    after (exec (.immul 3 1 2) (with3 0x4000000000000000 0x4000000000000000 0 (intRing 9223372036854775783))) (·.get 3) = some 2305843009213694102 := by
  decide +kernel

/-- R246. -/
theorem test_imdiv :
    after (exec (.imdiv 3 1 2) (with3 7 3 0 rich)) (·.get 3) = some 6 ∧
    after (exec (.imdiv 3 1 2) (with3 2 2 0 (intRing 4))) (·.code) = some 3 := by
  decide +kernel

/-- R247. -/
theorem test_imrecip :
    after (exec (.imrecip 2 1) (with3 2 0 0 rich)) (·.get 2) = some 6 ∧
    after (exec (.imrecip 2 1) (with3 0 0 0 rich)) (·.code) = some 2 := by
  decide +kernel

/-- R248. -/
theorem test_impow :
    after (exec (.impow 3 1 2) (with3 2 (-3) 0 rich)) (·.get 3) = some 7 ∧
    after (exec (.impow 3 1 2) (with3 11 0 0 rich)) (·.code) = some 5 := by
  decide +kernel

/-- R250. -/
theorem test_imnextu :
    after (exec (.imnextu 2 1) (with3 7 0 0 (intRing 12))) (·.get 2) = some 11 ∧
    after (exec (.imnextu 2 1) (with3 11 0 0 (intRing 12))) (·.get 2) = some 0 := by
  decide +kernel

/-! ## Order (46_order.md) -/

/-- R261. -/
theorem test_imorder :
    after (exec (.imorder 2 1) (with3 2 0 0 rich)) (·.get 2) = some 10 ∧
    after (exec (.imorder 2 1) (with3 2 0 0 (intRing 8))) (·.code) = some 3 := by
  decide +kernel

/-- R262. -/
theorem test_pmorder :
    after (exec (.pmorder 2 1) (with3 0x8 0 0 rich)) (·.get 2) = some 5 ∧
    after (exec (.pmorder 2 1) (with3 0x7 0 0 (polyRing 0x15))) (·.code) = some 3 := by
  decide +kernel

/-- R263. -/
theorem test_immaxord :
    after (exec (.immaxord 1) (intRing 15)) (·.get 1) = some 4 ∧
    after (exec (.immaxord 1) (intRing 1)) (·.code) = some 10 := by
  decide +kernel

/-- R264. -/
theorem test_pmmaxord :
    after (exec (.pmmaxord 1) (polyRing 0x15)) (·.get 1) = some 6 ∧
    after (exec (.pmmaxord 1) (polyRing 1)) (·.code) = some 10 := by
  decide +kernel

/-- R265. -/
theorem test_imgen :
    after (exec (.imgen 1) (intRing 18)) (·.get 1) = some 5 ∧
    after (exec (.imgen 1) (intRing 8)) (·.code) = some 11 := by
  decide +kernel

/-- R266. -/
theorem test_pmgen :
    after (exec (.pmgen 1) (polyRing 0x1F)) (·.get 1) = some 0x3 ∧
    after (exec (.pmgen 1) (polyRing 0x15)) (·.code) = some 11 := by
  decide +kernel

/-- R267; the corrected test (90_conflicts.md C5). -/
theorem test_pprim :
    after (exec (.pprim 2 1) (with3 0x13 0 0 rich)) (·.get 2) = some 1 ∧
    after (exec (.pprim 2 1) (with3 0x49 7 0 rich)) (·.get 2) = some 0 := by
  decide +kernel

/-! ## Witnesses: states and operands that meet the hypotheses of the statements, clause by clause -/

theorem witness_DecodeAndEncodeAgree :
    (Instr.pxgcd 1 2 3 4 5).Wf ∧ decode 0x27123450 = .ok (.pxgcd 1 2 3 4 5) := by decide +kernel

theorem witness_StepRunsTheCommand :
    let s := serving (.write cmdIndex 0x23300120) rich
    s.resetLine = false ∧ s.search = none ∧ s.fatal = false ∧ s.hostq = [.write cmdIndex 0x23300120] ∧
      decode 0x23300120 = .ok (.pmul 3 1 2) := by decide +kernel

theorem witness_IllegalWordRaises :
    let s := serving (.write cmdIndex 0x100000000) rich
    s.resetLine = false ∧ s.search = none ∧ s.fatal = false ∧ s.hostq = [.write cmdIndex 0x100000000] ∧
      decode 0x100000000 = .error .highBits := by decide +kernel

theorem witness_ResetValues : ({ rich with resetLine := true } : State).resetLine = true := rfl

theorem witness_HostReadAnswers :
    let s := serving (.read 0x1F) rich
    s.resetLine = false ∧ s.search = none ∧ s.hostq = [.read 0x1F] := by decide +kernel

/-- One index of each clause at each end of its range: 0, 15, 0x11, 0x12, 0x13, 0x1F. -/
theorem witness_HostWriteStores :
    let s := fun w => serving (.write w 5) rich
    (∀ w : WinIndex, (s w).resetLine = false ∧ (s w).search = none ∧ (s w).fatal = false ∧
      (s w).hostq = [.write w 5]) ∧
    (0 : WinIndex).toNat < 16 ∧ (0xF : WinIndex).toNat < 16 ∧
    (∀ w ∈ [(0x11 : WinIndex), 0x13, 0x1F], 16 ≤ w.toNat ∧ w ≠ 0x10 ∧ w ≠ 0x12) := by decide +kernel

theorem witness_FatalStateIgnoresWrites :
    let s := serving (.write 0x12 5) { rich with status := 0x120 }
    let s' := serving (.read 0x11) { rich with status := 0x120 }
    (s.resetLine = false ∧ s.search = none ∧ s.fatal = true ∧ s.hostq = [.write 0x12 5]) ∧
      (s'.resetLine = false ∧ s'.search = none ∧ s'.fatal = true ∧ s'.hostq = [.read 0x11]) := by decide +kernel

/-- Soundness does not look at the operand registers and the pending transactions. -/
theorem sound_with {s : State} (h : Inv s) (x : Vector Word 16) (q : List HostOp) :
    Inv { s with x := x, hostq := q } :=
  ⟨h.memory, h.statusZero, h.code, h.fatalCode, h.esticky, h.pmod, h.imod, h.mdim, h.matv, h.kdim, h.kerv, h.fstat,
    h.ftriv, h.search⟩

theorem rich_sound : Inv rich where
  memory := by decide +kernel
  statusZero := by decide +kernel
  code := by decide +kernel
  fatalCode := by decide +kernel
  esticky := by decide +kernel
  pmod := by decide +kernel
  imod := by decide +kernel
  mdim := by decide +kernel
  matv := by decide +kernel
  kdim := by decide +kernel
  kerv := by decide +kernel
  fstat := by decide +kernel
  ftriv := by decide +kernel
  search := fun _ h => by cases h

theorem rich_factors_ok (q : List HostOp) : FacOk { rich with hostq := q } := by
  have h : rich.fcount = 2 := by decide +kernel
  have hb : (rich.cell .facb 0).toNat = 2 ∧ (rich.cell .facb 1).toNat = 3 ∧ (rich.cell .facm 0).toNat = 3 ∧
      (rich.cell .facm 1).toNat = 2 := by decide +kernel
  refine ⟨fun i j hij hj => ?_, fun i hi => ?_, fun i hi => ?_⟩
  · change j < rich.fcount at hj
    obtain ⟨rfl, rfl⟩ : i = 0 ∧ j = 1 := by omega
    change (rich.cell .facb 0).toNat < (rich.cell .facb 1).toNat
    omega
  · change i < rich.fcount at hi
    change 2 ≤ (rich.cell .facb i).toNat
    rcases (by omega : i = 0 ∨ i = 1) with rfl | rfl <;> omega
  · change i < rich.fcount at hi
    change 1 ≤ (rich.cell .facm i).toNat ∧ (rich.cell .facm i).toNat ≤ 63
    rcases (by omega : i = 0 ∨ i = 1) with rfl | rfl <;> omega

/-- The sound state the statements about every step hold of, about to run PFACTOR: the step has a next state. -/
theorem witness_sound_step :
    let s : State := { regs [(1, 0x3F)] rich with hostq := [.write cmdIndex 0x31000100] }
    Inv s ∧ s.fatal = false ∧ after (step s) (fun t => (t.facb, t.fatal)) = some ([(0, 0x3), (1, 0x7)], false) :=
  ⟨sound_with rich_sound _ _, by decide +kernel, by decide +kernel⟩

theorem witness_StepKeepsFactorList :
    let s : State := { rich with hostq := [.write cmdIndex 0x18000000] }
    Inv s ∧ FacOk s ∧ after (step s) (·.mat) = some [(0, 0xD), (1, 0x6)] :=
  ⟨sound_with rich_sound _ _, rich_factors_ok _, by decide +kernel⟩

/-- A command that completes, one that fails, a failed construction, and a search that goes on, each with a next
state. -/
theorem witness_commands_end :
    after (exec (.padd 3 1 2) rich) (·.code) = some 0 ∧
    after (exec (.pquorem 3 4 1 2) rich) (·.code) = some 2 ∧
    after (exec (.mnew 1 2) rich) (·.code) = some 7 ∧ after (exec (.pmsetmod 1) rich) (·.code) = some 7 ∧
    after (exec (.imsetmod 1) rich) (·.code) = some 7 ∧
    after (exec (.prandirr 2 1) (with3 4 0 0 { rich with rnd := [] })) (·.search) = some (some ⟨2, 4⟩) := by
  decide +kernel

theorem witness_NoContextRaises :
    contextValid (.pmred 2 1) State.reset = false ∧ contextValid (.imgen 1) State.reset = false ∧
    contextValid .mref State.reset = false ∧ contextValid (.kgetrow 2 1) State.reset = false ∧
    contextValid (.fget 2 3 1) State.reset = false := by decide +kernel

/-- A register that is neither source nor destination, and a destination of a command that completes, of one that fails
and of a search that goes on. -/
theorem witness_OnlySourcesAreRead :
    (5 : Reg) ∉ (Instr.padd 3 1 2).srcs ∧ (5 : Reg) ∉ (Instr.padd 3 1 2).dests ∧
    (3 : Reg) ∉ (Instr.padd 3 1 2).srcs ∧ (3 : Reg) ∈ (Instr.padd 3 1 2).dests ∧
    after (exec (.padd 3 1 2) rich) (·.code) = some 0 ∧
    (3 : Reg) ∉ (Instr.pquorem 3 4 1 2).srcs ∧ after (exec (.pquorem 3 4 1 2) rich) (·.code) = some 2 ∧
    (2 : Reg) ∉ (Instr.prandirr 2 1).srcs ∧
    after (exec (.prandirr 2 1) (with3 4 0 0 { rich with rnd := [] })) (fun t => (t.code, t.search)) =
      some (0, some ⟨2, 4⟩) := by decide +kernel

/-- Each end of the ranges of the dimensions, and just outside. -/
theorem witness_NewMatrixIsZero :
    Memory.wf (with3 64 1 0 rich) ∧ (with3 64 1 0 rich).s64 1 = 64 ∧ (with3 64 1 0 rich).s64 2 = 1 ∧
    (with3 65 0 0 rich).s64 1 = 65 ∧ (with3 65 0 0 rich).s64 2 = 0 := by decide +kernel

/-- The first and the last row and just outside, a zero row and another; the state is sound by `rich_sound`. -/
theorem witness_RowCommands :
    rich.matv = true ∧ rich.nrows = 3 ∧ (with3 (-1) 0 0 rich).s64 1 = -1 ∧ (with3 3 0 0 rich).s64 1 = 3 ∧
    (with3 0 0 0 rich).s64 1 = 0 ∧ (with3 2 0 0 rich).s64 1 = 2 ∧ (rich.cell .mat 2).toNat % 2 ^ rich.ncols = 0xD := by
  decide +kernel

/-- A sound state with a zero row. -/
theorem witness_RowCommands_zero :
    after (exec (.mnew 1 2) (with3 3 4 0 rich)) (fun t => (t.matv, (t.cell .mat 0).toNat % 2 ^ t.ncols)) =
      some (true, 0) := by decide +kernel

theorem witness_ResultBankReads :
    rich.kerv = true ∧ rich.krows = 2 ∧ rich.fkind ≠ 0 ∧ rich.fcount = 2 ∧ (with3 2 0 0 rich).s64 1 = 2 ∧
    (with3 1 0 0 rich).s64 1 = 1 ∧ (with3 0 0 0 rich).s64 1 = 0 ∧ (with3 (-1) 0 0 rich).s64 1 = -1 := by
  decide +kernel

theorem witness_BitCommands :
    rich.matv = true ∧ rich.nrows = 3 ∧ rich.ncols = 4 ∧ (with3 2 3 0 rich).s64 1 = 2 ∧ (with3 2 3 0 rich).s64 2 = 3 ∧
    (with3 2 4 0 rich).s64 2 = 4 ∧ (with3 3 (-1) 0 rich).s64 1 = 3 ∧ (with3 3 (-1) 0 rich).s64 2 = -1 := by
  decide +kernel

/-- The matrix commands complete in the sound state `rich`. -/
theorem witness_matrix_commands : Inv rich ∧ rich.matv = true := ⟨rich_sound, by decide +kernel⟩

/-- Degrees that add to 63 and to 64. -/
theorem witness_PolyProduct :
    deg 0x8000000000000000 + deg 1 ≤ 63 ∧ 63 < deg 0x100000000 + deg 0x100000000 := by decide +kernel

theorem witness_PolyDivision : (with3 5 0 0 rich).u64 2 = 0 ∧ (with3 5 1 0 rich).u64 2 = 1 := by decide +kernel

/-- Exponents -1, 0 with base 0, 63 and 64 with base x, and any with base 1. -/
theorem witness_PolyPower :
    (with3 0 (-1) 0 rich).s64 2 = -1 ∧ (with3 0 0 0 rich).u64 1 = 0 ∧ (with3 0 0 0 rich).s64 2 = 0 ∧
    (with3 2 63 0 rich).s64 2 * (deg 2 : Int) = 63 ∧ (with3 2 64 0 rich).s64 2 * (deg 2 : Int) = 64 ∧
    (with3 1 64 0 rich).u64 1 = 1 := by decide +kernel

/-- Operands of each clause: both 0, the first 0, equal, and one dividing the other; the last pair has u = 0. -/
theorem witness_PolyGcds :
    (with3 0 0 0 rich).u64 2 = 0 ∧ (with3 0 3 0 rich).u64 1 = 0 ∧ (with3 0 3 0 rich).u64 2 ≠ 0 ∧
    (with3 3 3 0 rich).u64 1 = (with3 3 3 0 rich).u64 2 ∧
    (with3 6 3 0 rich).u64 1 ≠ 0 ∧ (with3 6 3 0 rich).u64 2 ≠ 0 ∧
    (with3 6 3 0 rich).u64 1 ≠ (with3 6 3 0 rich).u64 2 ∧
    after (exec (.pxgcd 3 4 5 1 2) (with3 6 3 0 rich)) (fun t => (t.u64 3, t.u64 4, t.u64 5)) = some (3, 0, 1) := by
  decide +kernel

/-- A square and its root, and a polynomial that is no square. -/
theorem witness_PolySquareRoot :
    (∃ r, polyOf r ^ 2 = polyOf ((with3 0x15 0 0 rich).u64 1)) ∧
      ∀ r, polyOf r ^ 2 ≠ polyOf ((with3 0x2 0 0 rich).u64 1) := by
  have h1 : (with3 0x15 0 0 rich).u64 1 = clmul 7 7 := by decide +kernel
  have h2 : (with3 0x2 0 0 rich).u64 1 = 2 := by decide +kernel
  refine ⟨⟨7, by rw [h1, polyOf_clmul, pow_two]⟩, fun r h => ?_⟩
  have := congrArg Polynomial.natDegree h
  rw [Polynomial.natDegree_pow, h2, natDegree_polyOf, natDegree_polyOf, show deg 2 = 1 from rfl] at this
  omega

theorem witness_memory : Memory.wf rich ∧ rich.u64 1 < 2 ∧ 2 ≤ (with3 2 0 0 rich).u64 1 := by decide +kernel

theorem witness_Irreducibility :
    (with3 0 0 0 rich).s64 1 < 1 ∧ (with3 1 0 0 rich).s64 1 = 1 ∧ (with3 63 0 0 rich).s64 1 = 63 ∧
    63 < (with3 64 0 0 rich).s64 1 := by decide +kernel

/-- Draws with and without an irreducible candidate, and a search in progress that completes and one that goes on. -/
theorem witness_RandomIrreducible :
    let cand := fun (d : Nat) (w : Word) => w.toNat % 2 ^ d ||| (1 <<< d) ||| 1
    rich.rnd = [0] ++ (2 : Word) :: [] ∧ irr (cand 4 0) = .ok false ∧ irr (cand 4 2) = .ok true ∧
    (let s : State := { rich with rnd := [2], search := some ⟨2, 4⟩ }
     s.resetLine = false ∧ irr (cand 4 s.draw.1) = .ok true) ∧
    (let s : State := { rich with rnd := [0], search := some ⟨2, 4⟩ }
     s.resetLine = false ∧ irr (cand 4 s.draw.1) = .ok false) := by decide +kernel

theorem witness_SetModulus :
    (with3 0 0 0 rich).get 1 = 0 ∧ (with3 0 0 0 rich).s64 1 ≤ 0 ∧ (with3 1 0 0 rich).get 1 ≠ 0 ∧
    0 < (with3 1 0 0 rich).s64 1 ∧ (with3 (-1) 0 0 rich).s64 1 ≤ 0 := by decide +kernel

/-- Valid rings, at the modulus 1 too. -/
theorem witness_rings :
    (rich.pmodv = true ∧ rich.pmod ≠ 0) ∧ (rich.imodv = true ∧ 0 < rich.imod.toInt) ∧
    ((polyRing 1).pmodv = true ∧ (polyRing 1).pmod ≠ 0 ∧ (polyRing 1).pmod = 1) ∧
    ((intRing 1).imodv = true ∧ 0 < (intRing 1).imod.toInt ∧ (intRing 1).imod = 1) := by decide +kernel

/-- A unit, an operand that reduces to 0, and a zero divisor, in F2[x] modulo x^2 + x and modulo 1. -/
theorem witness_PolyInverse :
    pgcd 1 0x6 = 1 ∧ pgcd 0x6 0x6 ≠ 1 ∧ pmodp 0x6 0x6 = 0 ∧ pgcd 2 0x6 ≠ 1 ∧ pmodp 2 0x6 ≠ 0 ∧ pgcd 0 1 = 1 := by
  decide +kernel

theorem witness_PolyRingPower :
    pmodp 0x13 0x13 = 0 ∧ (with3 0x13 0 0 rich).s64 2 = 0 ∧ pmodp 2 0x13 ≠ 0 ∧
    (with3 2 (-1) 0 rich).s64 2 < 0 ∧ pgcd 2 0x13 = 1 ∧ pgcd 0 0x13 ≠ 1 ∧ pmodp 0 0x13 = 0 := by decide +kernel

/-- Greatest common divisors of 2^63 - 1 and of 2^63, and a least common multiple that does not fit. -/
theorem witness_IntGcds :
    Int.gcd (2 ^ 63 - 1) 0 < 2 ^ 63 ∧ 2 ^ 63 ≤ Int.gcd ((with3 0x8000000000000000 0 0 rich).s64 1) 0 ∧
    Int.lcm 4 6 < 2 ^ 63 ∧ 2 ^ 63 ≤ Int.lcm (2 ^ 62) 3 := by decide +kernel

/-- Operands of each clause of the pair: the second 0, the first 0, opposite, and one dividing the other. -/
theorem witness_IntBezout :
    (with3 5 0 0 rich).s64 2 = 0 ∧ (with3 0 (-5) 0 rich).s64 1 = 0 ∧ (with3 0 (-5) 0 rich).s64 2 ≠ 0 ∧
    ((with3 5 (-5) 0 rich).s64 1).natAbs = ((with3 5 (-5) 0 rich).s64 2).natAbs ∧
    (with3 6 3 0 rich).s64 1 ≠ 0 ∧ (with3 6 3 0 rich).s64 2 ≠ 0 ∧
    ((with3 6 3 0 rich).s64 1).natAbs ≠ ((with3 6 3 0 rich).s64 2).natAbs ∧
    after (exec (.ixgcd 3 4 5 1 2) (with3 5 (-5) 0 rich)) (fun t => (t.s64 4, t.s64 5)) = some (0, -1) ∧
    after (exec (.ixgcd 3 4 5 1 2) (with3 6 3 0 rich)) (fun t => (t.s64 4, t.s64 5)) = some (0, 1) := by
  decide +kernel

theorem witness_IntTotients : (with3 0 0 0 rich).s64 1 ≤ 0 ∧ 0 < (with3 1 0 0 rich).s64 1 := by decide +kernel

theorem witness_IntModularArithmetic :
    (with3 2 (-1) 0 rich).s64 3 = 0 ∧ (with3 2 (-1) (-1) rich).s64 3 < 0 ∧ (with3 2 (-1) 1 rich).s64 2 < 0 ∧
    0 < (with3 2 0 1 rich).s64 3 ∧ (with3 2 0 1 rich).s64 2 = 0 ∧ Int.gcd 6 9 ≠ 1 ∧ Int.gcd 2 1 = 1 := by
  decide +kernel

theorem witness_IntFactorial :
    (with3 (-1) 0 0 rich).s64 1 < 0 ∧ 20 < (with3 21 0 0 rich).s64 1 ∧ (with3 0 0 0 rich).s64 1 = 0 ∧
    (with3 20 0 0 rich).s64 1 = 20 := by decide +kernel

theorem witness_IntFactorisation :
    Memory.wf rich ∧ (with3 0 0 0 rich).s64 1 = 0 ∧ (with3 (-1) 0 0 rich).s64 1 ≠ 0 := by decide +kernel

/-- The previous divisor one below the magnitude, at it, and the last divisor of -2^63. -/
theorem witness_IntNextDivisor :
    (with3 0 0 0 rich).s64 1 = 0 ∧ (with3 72 72 0 rich).s64 2 = ((with3 72 72 0 rich).s64 1).natAbs ∧
    (with3 72 71 0 rich).s64 2 < ((with3 72 71 0 rich).s64 1).natAbs ∧
    (with3 0x8000000000000000 0x7FFFFFFFFFFFFFFF 0 rich).s64 2 <
      ((with3 0x8000000000000000 0x7FFFFFFFFFFFFFFF 0 rich).s64 1).natAbs := by decide +kernel

theorem witness_IntInverse :
    Int.gcd 3 11 = 1 ∧ Int.gcd 0 11 ≠ 1 ∧ (0 : Int) % 11 = 0 ∧ Int.gcd 8 12 ≠ 1 ∧ (8 : Int) % 12 ≠ 0 ∧
    Int.gcd 0 1 = 1 := by decide +kernel

theorem witness_IntRingPower :
    (11 : Int) % 11 = 0 ∧ (with3 11 0 0 rich).s64 2 = 0 ∧ (2 : Int) % 11 ≠ 0 ∧ (with3 2 (-1) 0 rich).s64 2 < 0 ∧
    Int.gcd 2 11 = 1 ∧ Int.gcd 0 11 ≠ 1 ∧ Int.gcd 8 12 ≠ 1 ∧ (8 : Int) % 12 ≠ 0 := by decide +kernel

theorem witness_Orders :
    Int.gcd 2 11 = 1 ∧ Int.gcd 0 11 ≠ 1 ∧ pgcd 2 0x13 = 1 ∧ pgcd 0 0x13 ≠ 1 ∧ Int.gcd 0 1 = 1 ∧ pgcd 0 1 = 1 := by
  decide +kernel

/-- Generators exist modulo 2 and modulo x, and not modulo 1. -/
theorem witness_Generators :
    {u : Nat | IntUnit 2 u ∧ IsIntOrder 2 u (Nat.totient 2)}.Nonempty ∧
    ¬ {u : Nat | IntUnit 1 u ∧ IsIntOrder 1 u (Nat.totient 1)}.Nonempty ∧
    {u : Nat | PolyUnit 2 u ∧ IsPolyOrder 2 u (polyTotient 2)}.Nonempty ∧
    ¬ {u : Nat | PolyUnit 1 u ∧ IsPolyOrder 1 u (polyTotient 1)}.Nonempty := by
  have d2 : (polyOf 2).natDegree = 1 := natDegree_polyOf 2
  have d1 : (polyOf 1).natDegree = 0 := natDegree_polyOf 1
  refine ⟨⟨1, ⟨by decide, by decide, by decide⟩, ⟨by decide, by simp⟩, fun k hk => hk.1⟩, ?_, ?_, ?_⟩
  · rintro ⟨u, ⟨h1, h2, -⟩, -⟩
    omega
  · have c1 : IsCoprime (polyOf 1) (polyOf 2) := by rw [polyOf_one]; exact isCoprime_one_left
    have h : {u : Nat | u < 2 ^ (polyOf 2).natDegree ∧ IsCoprime (polyOf u) (polyOf 2)} = {1} := by
      ext u
      simp only [Set.mem_ofPred_eq, Set.mem_singleton_iff, d2, pow_one]
      constructor
      · rintro ⟨h1, h2⟩
        rcases (by omega : u = 0 ∨ u = 1) with rfl | rfl
        · exact absurd ((pgcd_eq_one_iff 0 2).mpr h2) (by decide +kernel)
        · rfl
      · rintro rfl
        exact ⟨by omega, c1⟩
    have ht : polyTotient 2 = 1 := by
      rw [polyTotient, Nat.card_congr (Equiv.setCongr h)]
      simp
    rw [ht]
    refine ⟨1, ⟨le_refl _, by rw [d2]; omega, c1⟩, ⟨le_refl _, ?_⟩, fun k hk => hk.1⟩
    simp [PolyCongr]
  · rintro ⟨u, ⟨h1, h2, -⟩, -⟩
    rw [d1] at h2
    omega

end Sys2Proof.Tests
end

section
/-! PROOFS. Gaussian elimination over GF(2): the echelon order, the length and the kernel vectors that rref keeps,
and the rank that two kernel vectors leave (40_bitvector_bitmatrix.md R108 to R113). -/

namespace Sys2Proof.Machine

/-! ## Leaders and the echelon form -/

/-- `lead` finds the leader (40_bitvector_bitmatrix.md R108). -/
theorem lead_eq_some_iff {v l : Nat} : lead v = some l ↔ IsLeader v l := by
  rw [lead, List.find?_range_eq_some]
  constructor
  · rintro ⟨hl, -, hmin⟩
    exact ⟨hl, fun j hj => by simpa using hmin j hj⟩
  · rintro ⟨hl, hmin⟩
    refine ⟨hl, ?_, fun j hj => by simp [hmin j hj]⟩
    have : l ≤ v.log2 := (Nat.le_log2 (fun h => by simp [h] at hl)).mpr (Nat.ge_two_pow_of_testBit hl)
    simpa using this

theorem isLeader_zero (l : Nat) : ¬ IsLeader 0 l := fun h => by simpa using h.1

theorem IsLeader.unique {v l l' : Nat} (h : IsLeader v l) (h' : IsLeader v l') : l = l' :=
  Option.some_inj.mp ((lead_eq_some_iff.mpr h).symm.trans (lead_eq_some_iff.mpr h'))

theorem lead_eq_none_iff {v : Nat} : lead v = none ↔ v = 0 := by
  constructor
  · intro h
    by_contra hv
    have := List.find?_eq_none.mp h v.log2 (by simp)
    exact this (Nat.testBit_log2 hv)
  · rintro rfl
    cases h : lead 0 with
    | none => rfl
    | some l => exact absurd (lead_eq_some_iff.mp h) (isLeader_zero l)

theorem exists_isLeader {v : Nat} (h : v ≠ 0) : ∃ l, IsLeader v l := by
  cases hl : lead v with
  | none => exact absurd (lead_eq_none_iff.mp hl) h
  | some l => exact ⟨l, lead_eq_some_iff.mp hl⟩

theorem IsLeader.lt {v l n : Nat} (h : IsLeader v l) (hv : v < 2 ^ n) : l < n :=
  (Nat.pow_lt_pow_iff_right (by omega)).mp ((Nat.ge_two_pow_of_testBit h.1).trans_lt hv)

/-- Adding a row that is 0 up to the leader of another keeps that leader. -/
theorem IsLeader.xor {r k l : Nat} (h : IsLeader r l) (hk : ∀ j ≤ l, k.testBit j = false) : IsLeader (r ^^^ k) l :=
  ⟨by rw [Nat.testBit_xor, h.1, hk l le_rfl]; rfl,
    fun j hj => by rw [Nat.testBit_xor, h.2 j hj, hk j hj.le]; rfl⟩

/-- Row `b` stands below row `a` in an echelon form: it is 0, or its leader is to the right of that of `a`. -/
def Below (a b : Nat) : Prop := b = 0 ∨ ∃ l l', IsLeader a l ∧ IsLeader b l' ∧ l < l'

theorem Below.congr {a b a' b' : Nat} (ha : ∀ l, IsLeader a l → IsLeader a' l) (hb : ∀ l, IsLeader b l → IsLeader b' l)
    (hz : b = 0 → b' = 0) : Below a b → Below a' b'
  | .inl h => .inl (hz h)
  | .inr ⟨l, l', h, h', hlt⟩ => .inr ⟨l, l', ha l h, hb l' h', hlt⟩

/-- What phase 1 of rref keeps (R110), the columns below `c` being done: the rows above are in echelon form, with
leaders below `c`, and the others are 0 there. -/
structure Eliminated (c : Nat) (rows : List Nat × List Nat) : Prop where
  echelon : rows.1.Pairwise Below
  leaders : ∀ r ∈ rows.1, ∃ l < c, IsLeader r l
  rest : ∀ r ∈ rows.2, ∀ j < c, r.testBit j = false

/-- The rows that remain after the pivot was moved out were there before. -/
theorem mem_of_mem_tail_set {rows : List Nat} {p r : Nat} (h : r ∈ (rows.set p (rows.headD 0)).tail) : r ∈ rows := by
  cases rows with
  | nil => simp at h
  | cons a t =>
    rcases List.mem_or_eq_of_mem_set (List.mem_of_mem_tail h) with h | rfl
    · exact h
    · simp

/-- What one column of phase 1 does: nothing where no remaining row has a 1 there; else a remaining row with a 1
becomes a pivot and is added into some of the others. -/
theorem elimColumn_cases (rows : List Nat × List Nat) (c : Nat) :
    ((∀ r ∈ rows.2, r.testBit c = false) ∧ elimColumn rows c = rows) ∨
    ∃ pivot rest, pivot ∈ rows.2 ∧ pivot.testBit c = true ∧ elimColumn rows c = (rows.1 ++ [pivot], rest) ∧
      ∀ r ∈ rest, ∃ r' ∈ rows.2, r = if r'.testBit c then r' ^^^ pivot else r' := by
  unfold elimColumn
  split
  next h =>
    exact .inl ⟨fun r hr => by simpa using List.findIdx?_eq_none_iff.mp h r hr, rfl⟩
  next p h =>
    obtain ⟨hp, hc, -⟩ := List.findIdx?_eq_some_iff_getElem.mp h
    refine .inr ⟨_, _, ?_, ?_, rfl, fun r hr => ?_⟩
    · simp [hp]
    · simpa [hp] using hc
    · obtain ⟨r', hr', rfl⟩ := List.mem_map.mp hr
      exact ⟨r', mem_of_mem_tail_set hr', rfl⟩

theorem Eliminated.elimColumn {c : Nat} {rows : List Nat × List Nat} (h : Eliminated c rows) :
    Eliminated (c + 1) (elimColumn rows c) := by
  obtain ⟨hech, hlead, hrest⟩ := h
  rcases elimColumn_cases rows c with ⟨h0, he⟩ | ⟨pivot, rest, hp, hpc, he, hr⟩
  · rw [he]
    refine ⟨hech, fun r hr => ?_, fun r hr j hj => ?_⟩
    · obtain ⟨l, hl, h⟩ := hlead r hr
      exact ⟨l, by omega, h⟩
    · rcases Nat.lt_succ_iff_lt_or_eq.mp hj with hj | rfl
      · exact hrest r hr j hj
      · exact h0 r hr
  · have hpl : IsLeader pivot c := ⟨hpc, hrest pivot hp⟩
    rw [he]
    refine ⟨List.pairwise_append.mpr ⟨hech, List.pairwise_singleton _ _, fun a ha b hb => ?_⟩, fun r hr => ?_,
      fun r hmem j hj => ?_⟩
    · obtain ⟨l, hl, h⟩ := hlead a ha
      rw [List.mem_singleton.mp hb]
      exact .inr ⟨l, c, h, hpl, hl⟩
    · rcases List.mem_append.mp hr with hr | hr
      · obtain ⟨l, hl, h⟩ := hlead r hr
        exact ⟨l, by omega, h⟩
      · rw [List.mem_singleton.mp hr]
        exact ⟨c, by omega, hpl⟩
    · obtain ⟨r', hr', rfl⟩ := hr r hmem
      rcases Nat.lt_succ_iff_lt_or_eq.mp hj with hj | rfl
      · split <;> simp [Nat.testBit_xor, hrest r' hr' j hj, hrest pivot hp j hj]
      · split <;> simp_all [Nat.testBit_xor]

theorem eliminated_foldl (nc : Nat) (rows : List Nat) :
    Eliminated nc ((List.range nc).foldl elimColumn ([], rows)) := by
  induction nc with
  | zero => exact ⟨List.Pairwise.nil, by simp, fun _ _ j hj => by omega⟩
  | succ nc ih =>
    rw [List.range_succ, List.foldl_append]
    exact ih.elimColumn

/-- A property that is kept under the sum of two rows is kept by phase 1 of rref. -/
theorem forwardElim_forall {P : Nat → Prop} (hP : ∀ a b, P a → P b → P (a ^^^ b)) (nc : Nat) {rows : List Nat}
    (h : ∀ r ∈ rows, P r) : ∀ r ∈ forwardElim nc rows, P r := by
  have key : ∀ cs : List Nat, ∀ st : List Nat × List Nat, (∀ r ∈ st.1 ++ st.2, P r) →
      ∀ r ∈ (cs.foldl elimColumn st).1 ++ (cs.foldl elimColumn st).2, P r := by
    intro cs
    induction cs with
    | nil => exact fun st h => h
    | cons c cs ih =>
      refine fun st h => ih _ fun r hr => ?_
      rcases elimColumn_cases st c with ⟨-, he⟩ | ⟨pivot, rest, hp, -, he, hrest⟩
      · exact h r (he ▸ hr)
      · have hpivot := h pivot (List.mem_append_right _ hp)
        rw [he, List.mem_append, List.mem_append, List.mem_singleton] at hr
        rcases hr with (hr | rfl) | hr
        · exact h r (List.mem_append_left _ hr)
        · exact hpivot
        · obtain ⟨r', hr', rfl⟩ := hrest r hr
          have := h r' (List.mem_append_right _ hr')
          split
          · exact hP _ _ this hpivot
          · exact this
  exact key _ _ (by simpa using h)

theorem foldl_clearAt_induction {P : Nat → Prop} {ks : List Nat} (hP : ∀ a, P a → ∀ k ∈ ks, P (a ^^^ k)) {r : Nat}
    (h : P r) : P (ks.foldl clearAt r) := by
  induction ks generalizing r with
  | nil => exact h
  | cons k ks ih =>
    refine ih (fun a ha k hk => hP a ha k (List.mem_cons_of_mem _ hk)) ?_
    unfold clearAt
    split
    · exact h
    · split
      · exact hP r h k (by simp)
      · exact h

/-- A property that is kept under the sum of two rows is kept by phase 2 of rref. -/
theorem backSubst_forall {P : Nat → Prop} (hP : ∀ a b, P a → P b → P (a ^^^ b)) {rows : List Nat}
    (h : ∀ r ∈ rows, P r) : ∀ r ∈ backSubst rows, P r := by
  induction rows with
  | nil => simp [backSubst]
  | cons r below ih =>
    rw [List.forall_mem_cons] at h
    refine List.forall_mem_cons.mpr ⟨?_, ih h.2⟩
    exact foldl_clearAt_induction (fun a ha k hk => hP a k ha (h.2 k hk)) h.1

theorem rref_forall {P : Nat → Prop} (hP : ∀ a b, P a → P b → P (a ^^^ b)) (nc : Nat) {rows : List Nat}
    (h : ∀ r ∈ rows, P r) : ∀ r ∈ rref nc rows, P r :=
  backSubst_forall hP (forwardElim_forall hP nc h)

/-- Adding later rows of an echelon form into a row keeps its leader, and a zero row. -/
theorem leader_foldl_clearAt {r : Nat} {below : List Nat} (h : ∀ k ∈ below, Below r k) :
    (∀ l, IsLeader r l → IsLeader (below.foldl clearAt r) l) ∧ (r = 0 → below.foldl clearAt r = 0) := by
  constructor
  · intro l hl
    refine foldl_clearAt_induction (P := (IsLeader · l)) (fun a ha k hk => ha.xor fun j hj => ?_) hl
    rcases h k hk with rfl | ⟨l1, l2, h1, h2, hlt⟩
    · simp
    · exact h2.2 j (by have := hl.unique h1; omega)
  · rintro rfl
    refine foldl_clearAt_induction (P := (· = 0)) (fun a ha k hk => ?_) rfl
    rcases h k hk with rfl | ⟨l1, l2, h1, -⟩
    · simp [ha]
    · exact absurd h1 (isLeader_zero l1)

theorem exists_of_mem_backSubst {rows : List Nat} (h : rows.Pairwise Below) {b : Nat} (hb : b ∈ backSubst rows) :
    ∃ a ∈ rows, (∀ l, IsLeader a l → IsLeader b l) ∧ (a = 0 → b = 0) := by
  induction rows with
  | nil => simp [backSubst] at hb
  | cons r below ih =>
    rw [List.pairwise_cons] at h
    rcases List.mem_cons.mp hb with rfl | hb
    · exact ⟨r, by simp, leader_foldl_clearAt h.1⟩
    · obtain ⟨a, ha, hab⟩ := ih h.2 hb
      exact ⟨a, List.mem_cons_of_mem _ ha, hab⟩

theorem pairwise_backSubst {rows : List Nat} (h : rows.Pairwise Below) : (backSubst rows).Pairwise Below := by
  induction rows with
  | nil => exact List.Pairwise.nil
  | cons r below ih =>
    rw [List.pairwise_cons] at h
    refine List.pairwise_cons.mpr ⟨fun b hb => ?_, ih h.2⟩
    obtain ⟨a, ha, hab, hz⟩ := exists_of_mem_backSubst h.2 hb
    exact (h.1 a ha).congr (leader_foldl_clearAt h.1).1 hab hz

theorem pairwise_forwardElim {nc : Nat} {rows : List Nat} (h : ∀ r ∈ rows, r < 2 ^ nc) :
    (forwardElim nc rows).Pairwise Below := by
  obtain ⟨hech, -, hrest⟩ := eliminated_foldl nc rows
  have hlt := forwardElim_forall (P := (· < 2 ^ nc)) (fun a b => Nat.xor_lt_two_pow) nc h
  have hzero : ∀ r ∈ ((List.range nc).foldl elimColumn ([], rows)).2, r = 0 := fun r hr => by
    by_contra hr0
    obtain ⟨l, hl⟩ := exists_isLeader hr0
    have := hrest r hr l (hl.lt (hlt r (List.mem_append_right _ hr)))
    simp [hl.1] at this
  refine List.pairwise_append.mpr ⟨hech, ?_, fun a _ b hb => .inl (hzero b hb)⟩
  exact List.pairwise_of_forall_mem_list fun a _ b hb => .inl (hzero b hb)

/-- The rows of the reduced form stand in echelon order (R111). -/
theorem pairwise_rref {nc : Nat} {rows : List Nat} (h : ∀ r ∈ rows, r < 2 ^ nc) : (rref nc rows).Pairwise Below :=
  pairwise_backSubst (pairwise_forwardElim h)

theorem length_backSubst (rows : List Nat) : (backSubst rows).length = rows.length := by
  induction rows with
  | nil => rfl
  | cons r below ih => simp [backSubst, ih]

theorem length_elimColumn (rows : List Nat × List Nat) (c : Nat) :
    (elimColumn rows c).1.length + (elimColumn rows c).2.length = rows.1.length + rows.2.length := by
  unfold elimColumn
  split
  · rfl
  next p h =>
    obtain ⟨hp, -⟩ := List.findIdx?_eq_some_iff_getElem.mp h
    simp
    omega

/-- rref keeps the number of rows. -/
theorem length_rref (nc : Nat) (rows : List Nat) : (rref nc rows).length = rows.length := by
  have key : ∀ cs : List Nat, ∀ st : List Nat × List Nat,
      (cs.foldl elimColumn st).1.length + (cs.foldl elimColumn st).2.length = st.1.length + st.2.length := by
    intro cs
    induction cs with
    | nil => exact fun _ => rfl
    | cons c cs ih => exact fun st => (ih _).trans (length_elimColumn st c)
  rw [rref, length_backSubst, forwardElim, List.length_append, key]
  simp

/-- A basis has at most as many vectors as columns. -/
theorem length_kernelBasis {nc : Nat} {rows basis : List Nat} (h : kernelBasis nc rows = .ok basis) :
    basis.length ≤ nc := by
  unfold kernelBasis at h
  simp only at h
  split at h
  · cases h
  · cases h
    rw [List.length_map]
    simpa using List.length_filter_le (fun c => !(((pivotRows (rref nc rows)).map lead).contains (some c)))
      (List.range nc)

/-! ## Kernel vectors and the rank -/

theorem bitCount_cast (v : Nat) :
    (bitCount v : ZMod 2) = ∑ j ∈ Finset.range 64, if v.testBit j then 1 else 0 := by
  have h : bitCount v = ((Finset.range 64).filter fun j => v.testBit j = true).card := by
    simp only [bitCount, Finset.card, Finset.filter, Finset.range, Multiset.range]
    simp
  rw [h, Finset.card_filter]
  push_cast
  rfl

theorem bitCount_xor_and (a b v : Nat) :
    (bitCount ((a ^^^ b) &&& v) : ZMod 2) = bitCount (a &&& v) + bitCount (b &&& v) := by
  rw [bitCount_cast, bitCount_cast, bitCount_cast, ← Finset.sum_add_distrib]
  refine Finset.sum_congr rfl fun j _ => ?_
  rw [Nat.testBit_and, Nat.testBit_and, Nat.testBit_and, Nat.testBit_xor]
  cases a.testBit j <;> cases b.testBit j <;> cases v.testBit j <;> decide

theorem inKernel_iff {rows : List Nat} {v : Nat} :
    InKernel rows v ↔ ∀ w ∈ rows, (bitCount (w &&& v) : ZMod 2) = 0 := by
  simp only [InKernel, ZMod.natCast_eq_zero_iff, Nat.dvd_iff_mod_eq_zero]

/-- A kernel vector of a matrix is one of its reduced form. -/
theorem InKernel.rref {rows : List Nat} {v : Nat} (h : InKernel rows v) (nc : Nat) : InKernel (rref nc rows) v :=
  inKernel_iff.mpr <| rref_forall (P := fun w => (bitCount (w &&& v) : ZMod 2) = 0)
    (fun a b ha hb => by rw [bitCount_xor_and, ha, hb, add_zero]) nc (inKernel_iff.mp h)

/-- The top bit of a kernel vector is the leader of no row: the row would have this one bit in common with it. -/
theorem InKernel.not_isLeader_log2 {rows : List Nat} {v : Nat} (h : InKernel rows v) (hv : v ≠ 0) (h64 : v < 2 ^ 64)
    {w : Nat} (hw : w ∈ rows) : ¬ IsLeader w v.log2 := by
  intro hl
  have hk : v.log2 < 64 := (Nat.log2_lt hv).mpr h64
  have hone : ∀ j, (w &&& v).testBit j = decide (j = v.log2) := by
    intro j
    rw [Nat.testBit_and]
    rcases lt_trichotomy j v.log2 with hj | rfl | hj
    · simp [hl.2 j hj, hj.ne]
    · simp [hl.1, Nat.testBit_log2 hv]
    · simp [Nat.testBit_lt_two_pow ((Nat.log2_lt hv).mp hj), hj.ne']
  have := inKernel_iff.mp h w hw
  simp [bitCount_cast, hone, hk] at this

/-- Two kernel vectors with different top bits take two columns from the rank. -/
theorem rankof_add_two_le {n : Nat} {rows : List Nat} (hrows : ∀ r ∈ rows, r < 2 ^ n) {u v : Nat}
    (hu : InKernel rows u) (hv : InKernel rows v) (hu0 : u ≠ 0) (hv0 : v ≠ 0) (hun : u < 2 ^ n) (hvn : v < 2 ^ n)
    (huv : u.log2 ≠ v.log2) (hn : n ≤ 64) : rankof n rows + 2 ≤ n := by
  have hp64 : 2 ^ n ≤ 2 ^ 64 := Nat.pow_le_pow_right (by omega) hn
  have hsub : pivotRows (rref n rows) ⊆ rref n rows := (List.takeWhile_sublist _).subset
  have hne : ∀ r ∈ pivotRows (rref n rows), r ≠ 0 := fun r hr => by simpa using List.mem_takeWhile_imp hr
  have hlead : ∀ r ∈ pivotRows (rref n rows), ∃ l, lead r = some l ∧ IsLeader r l := fun r hr => by
    obtain ⟨l, hl⟩ := exists_isLeader (hne r hr)
    exact ⟨l, lead_eq_some_iff.mpr hl, hl⟩
  have hnodup : ((pivotRows (rref n rows)).map fun r => (lead r).getD 0).Nodup := by
    refine List.pairwise_map.mpr (((pairwise_rref hrows).sublist (List.takeWhile_sublist _)).imp_of_mem ?_)
    intro a b ha hb hab
    obtain ⟨l, l', h, h', hlt⟩ := hab.resolve_left (hne b hb)
    rw [lead_eq_some_iff.mpr h, lead_eq_some_iff.mpr h']
    exact hlt.ne
  have hmem : ((pivotRows (rref n rows)).map fun r => (lead r).getD 0).toFinset ⊆
      (Finset.range n \ {u.log2, v.log2}) := by
    intro c hc
    obtain ⟨r, hr, rfl⟩ := List.mem_map.mp (List.mem_toFinset.mp hc)
    obtain ⟨l, he, hl⟩ := hlead r hr
    have hrn := rref_forall (P := (· < 2 ^ n)) (fun a b => Nat.xor_lt_two_pow) n hrows r (hsub hr)
    have h1 : l ≠ u.log2 := fun e => (hu.rref n).not_isLeader_log2 hu0 (by omega) (hsub hr) (e ▸ hl)
    have h2 : l ≠ v.log2 := fun e => (hv.rref n).not_isLeader_log2 hv0 (by omega) (hsub hr) (e ▸ hl)
    simp [he, hl.lt hrn, h1, h2]
  have hcard := Finset.card_le_card hmem
  have htwo : ({u.log2, v.log2} : Finset Nat) ⊆ Finset.range n := by
    intro c hc
    rcases Finset.mem_insert.mp hc with rfl | hc
    · exact Finset.mem_range.mpr ((Nat.log2_lt hu0).mpr hun)
    · rw [Finset.mem_singleton.mp hc]
      exact Finset.mem_range.mpr ((Nat.log2_lt hv0).mpr hvn)
  have := Finset.card_le_card htwo
  rw [List.toFinset_card_of_nodup hnodup, List.length_map, Finset.card_sdiff_of_subset htwo, Finset.card_pair huv,
    Finset.card_range] at hcard
  rw [Finset.card_pair huv, Finset.card_range] at this
  rw [rankof]
  omega

end Sys2Proof.Machine
end

section
/-! PROOFS. The Berlekamp matrix is the map h -> h^2 + h modulo f (42_f2polyfactor.md R161). -/

namespace Sys2Proof.Machine

/-! ## The matrix of h -> h^2 + h -/

open Polynomial in
/-- Numbers below 2^n as sums of n monomials. -/
theorem polyOf_eq_sum {a n : Nat} (h : a < 2 ^ n) :
    polyOf a = ∑ j ∈ Finset.range n, if a.testBit j then (X : (ZMod 2)[X]) ^ j else 0 := by
  ext k
  rw [finsetSum_coeff, coeff_polyOf]
  have : ∀ j ∈ Finset.range n, ((if a.testBit j then (X : (ZMod 2)[X]) ^ j else 0).coeff k)
      = if j = k then (if a.testBit k then 1 else 0) else 0 := by
    intro j _
    by_cases hj : j = k
    · subst hj; split <;> simp
    · rw [if_neg hj]; split <;> simp [coeff_X_pow, Ne.symm hj]
  rw [Finset.sum_congr rfl this, Finset.sum_ite_eq']
  by_cases hk : k ∈ Finset.range n
  · rw [if_pos hk]
  · have hk' : n ≤ k := by simpa using hk
    rw [if_neg hk, Nat.testBit_lt_two_pow (h.trans_le (Nat.pow_le_pow_right (by omega) hk'))]
    rfl

theorem testBit_bitsToNat (l : List Bool) (j : Nat) : (bitsToNat l).testBit j = l.getD j false := by
  induction l generalizing j with
  | nil => simp [bitsToNat]
  | cons b bs ih =>
    cases j with
    | zero => cases b <;> simp [bitsToNat, Nat.testBit_zero]
    | succ j =>
      have : (b.toNat + 2 * bitsToNat bs) / 2 = bitsToNat bs := by
        have := Bool.toNat_le b
        omega
      rw [bitsToNat, Nat.testBit_succ, this, ih, List.getD_cons_succ]

theorem bitsToNat_lt (l : List Bool) : bitsToNat l < 2 ^ l.length := by
  induction l with
  | nil => simp [bitsToNat]
  | cons b bs ih =>
    have := Bool.toNat_le b
    rw [bitsToNat, List.length_cons, pow_succ]
    omega

open Polynomial in
/-- Every polynomial of degree below n is that of a number below 2^n. -/
theorem exists_polyOf_eq {p : (ZMod 2)[X]} {n : Nat} (h : p.degree < n) : ∃ a < 2 ^ n, polyOf a = p := by
  refine ⟨bitsToNat ((List.range n).map fun j => decide (p.coeff j = 1)), ?_, ?_⟩
  · simpa using bitsToNat_lt ((List.range n).map fun j => decide (p.coeff j = 1))
  have two : ∀ z : ZMod 2, (if z = 1 then 1 else 0) = z := by decide
  ext k
  rw [coeff_polyOf, testBit_bitsToNat]
  by_cases hk : k < n
  · simp [hk, two]
  · have : p.coeff k = 0 := coeff_eq_zero_of_degree_lt (h.trans_le (by exact_mod_cast not_lt.mp hk))
    simp [hk, this]

open Polynomial in
theorem dvd_mod_sub (p q : (ZMod 2)[X]) : q ∣ p % q - p :=
  ⟨-(p / q), by rw [EuclideanDomain.mod_eq_sub_mul_div]; ring⟩

/-- The remainder is the one of F2[x] (R133). -/
theorem polyOf_pmodp (a : Nat) {b : Nat} (hb : b ≠ 0) : polyOf (pmodp a b) = polyOf a % polyOf b :=
  (polyOf_pquorem a hb).2

theorem length_squarePowers (f n c : Nat) : (squarePowers f n c).length = n := by
  induction n generalizing c with
  | zero => rfl
  | succ n ih => simp [squarePowers, ih]

open Polynomial in
/-- The i-th column is x^(2i) times the first, modulo f (R161). -/
theorem polyOf_squarePowers {f : Nat} (hf : f ≠ 0) (n c i : Nat) (hi : i < n) (hc : polyOf c % polyOf f = polyOf c) :
    polyOf ((squarePowers f n c).getD i 0) = (polyOf c * X ^ (2 * i)) % polyOf f := by
  induction n generalizing c i with
  | zero => omega
  | succ n ih =>
    cases i with
    | zero => simp [squarePowers, hc]
    | succ i =>
      have hstep : polyOf (pmodp (c <<< 2) f) = (polyOf c * X ^ 2) % polyOf f := by
        rw [polyOf_pmodp _ hf, polyOf_shiftLeft]
      rw [squarePowers, List.getD_cons_succ, ih _ _ (by omega)
        (by rw [hstep]; exact mod_eq_of_dvd_sub (dvd_mod_sub _ _)), hstep]
      obtain ⟨q, hq⟩ := dvd_mod_sub (polyOf c * X ^ 2) (polyOf f)
      exact mod_eq_of_dvd_sub ⟨q * X ^ (2 * i), by linear_combination (X ^ (2 * i)) * hq⟩

theorem deg_pos_iff {f : Nat} : 1 ≤ deg f ↔ 2 ≤ f := by
  rw [deg]
  constructor
  · intro h
    by_contra hf
    rcases (by omega : f = 0 ∨ f = 1) with rfl | rfl <;> exact absurd h (by decide)
  · exact fun h => (Nat.le_log2 (by omega)).mpr (by omega)

open Polynomial in
theorem degree_polyOf_lt {a n : Nat} (h : a < 2 ^ n) : (polyOf a).degree < n := by
  rw [degree_lt_iff_coeff_zero]
  intro j hj
  rw [coeff_polyOf, Nat.testBit_lt_two_pow (h.trans_le (Nat.pow_le_pow_right (by omega) (by exact_mod_cast hj)))]
  rfl

theorem degree_polyOf {f : Nat} (hf : f ≠ 0) : (polyOf f).degree = deg f := by
  rw [Polynomial.degree_eq_natDegree (fun h => hf (polyOf_eq_zero.mp h)), natDegree_polyOf]

open Polynomial in
/-- A reduced residue is its own remainder. -/
theorem polyOf_mod_of_lt {a f : Nat} (hf : f ≠ 0) (h : a < 2 ^ deg f) : polyOf a % polyOf f = polyOf a := by
  rw [mod_eq_self_iff (fun h => hf (polyOf_eq_zero.mp h)), degree_polyOf hf]
  exact degree_polyOf_lt h

open Polynomial in
theorem sum_mod {ι : Type} (s : Finset ι) (g : ι → (ZMod 2)[X]) (q : (ZMod 2)[X]) :
    (∑ i ∈ s, g i) % q = ∑ i ∈ s, g i % q :=
  map_sum (AddMonoidHom.mk' (· % q) fun a b => add_mod a b q) g s

open Polynomial in
/-- Row r of the Berlekamp matrix has with h an odd number of bits in common exactly where the coefficient of x^r in
h^2 + h modulo f is 1 (R161, R172). -/
theorem bitCount_bkmat {f h r : Nat} (hf : 1 ≤ deg f) (h64 : deg f ≤ 64) (hr : r < deg f) (hh : h < 2 ^ deg f) :
    (bitCount ((bkmat f).getD r 0 &&& h) : ZMod 2) = ((polyOf h ^ 2 + polyOf h) % polyOf f).coeff r := by
  have hf0 : f ≠ 0 := by have := deg_pos_iff.mp hf; omega
  have hrow : (bkmat f).getD r 0 =
      bitsToNat ((squarePowers f (deg f) 1).map fun c => c.testBit r) ^^^ (1 <<< r) := by
    simp [bkmat, hr]
  have hid : (bitCount ((1 <<< r) &&& h) : ZMod 2) = (polyOf h).coeff r := by
    rw [bitCount_cast, coeff_polyOf, Finset.sum_eq_single_of_mem r (Finset.mem_range.mpr (by omega))]
    · rw [Nat.testBit_and, Nat.one_shiftLeft, Nat.testBit_two_pow_self, Bool.true_and]
    · intro j _ hj
      rw [Nat.testBit_and, Nat.one_shiftLeft, Nat.testBit_two_pow_of_ne hj.symm]
      rfl
  have hsq : polyOf h ^ 2 = ∑ j ∈ Finset.range (deg f), if h.testBit j then (X : (ZMod 2)[X]) ^ (2 * j) else 0 := by
    rw [polyOf_eq_sum hh, sum_pow_char]
    refine Finset.sum_congr rfl fun j _ => ?_
    split
    · rw [← pow_mul, mul_comm]
    · simp
  have hcol : ∀ j < deg f, (if ((squarePowers f (deg f) 1).getD j 0).testBit r then (1 : ZMod 2) else 0) =
      ((X : (ZMod 2)[X]) ^ (2 * j) % polyOf f).coeff r := by
    intro j hj
    have h1 : polyOf 1 % polyOf f = polyOf 1 := polyOf_mod_of_lt hf0 (Nat.one_lt_two_pow (by omega))
    rw [← coeff_polyOf, polyOf_squarePowers hf0 _ _ _ hj h1, polyOf_one, one_mul]
  have hpart : (bitCount (bitsToNat ((squarePowers f (deg f) 1).map fun c => c.testBit r) &&& h) : ZMod 2) =
      (polyOf h ^ 2 % polyOf f).coeff r := by
    rw [bitCount_cast, hsq, sum_mod, finsetSum_coeff]
    refine (Finset.sum_subset_zero_on_sdiff (Finset.range_subset_range.mpr h64) (fun j hj => ?_) fun j hj => ?_).symm
    · have hj : deg f ≤ j := by simpa using (Finset.mem_sdiff.mp hj).2
      rw [Nat.testBit_and, Nat.testBit_lt_two_pow (hh.trans_le (Nat.pow_le_pow_right (by omega) hj)), Bool.and_false]
      rfl
    · rw [Nat.testBit_and, testBit_bitsToNat]
      have hj := Finset.mem_range.mp hj
      have hget : ((squarePowers f (deg f) 1).map fun c => c.testBit r).getD j false =
          ((squarePowers f (deg f) 1).getD j 0).testBit r := by
        simp [hj, length_squarePowers]
      rw [hget]
      cases h.testBit j
      · simp
      · rw [Bool.and_true, hcol j hj]
        rfl
  rw [hrow, bitCount_xor_and, hpart, hid, add_mod, coeff_add, polyOf_mod_of_lt hf0 hh]

end Sys2Proof.Machine
end

section
/-! PROOFS. The irreducibility test of R162, factor lists and their products (10_state.md R34, R36, R37),
derivative and square root in F2[x] (41_f2poly.md R136, R137). -/

namespace Sys2Proof.Machine

/-! ## The irreducibility test of Berlekamp's algorithm -/

theorem bkmat_lt (f : Nat) : ∀ r ∈ bkmat f, r < 2 ^ deg f := by
  intro w hw
  obtain ⟨r, hr, rfl⟩ := List.mem_map.mp hw
  refine Nat.xor_lt_two_pow ?_ ?_
  · simpa [length_squarePowers] using bitsToNat_lt ((squarePowers f (deg f) 1).map fun c => c.testBit r)
  · rw [Nat.one_shiftLeft]
    exact Nat.pow_lt_pow_right (by omega) (List.mem_range.mp hr)

/-- The polynomials with h^2 = h modulo f are in the kernel of the Berlekamp matrix (R161). -/
theorem inKernel_bkmat {f h : Nat} (hf : 1 ≤ deg f) (h64 : deg f ≤ 64) (hh : h < 2 ^ deg f)
    (hd : polyOf f ∣ polyOf h ^ 2 + polyOf h) : InKernel (bkmat f) h := by
  refine inKernel_iff.mpr fun w hw => ?_
  obtain ⟨r, hr, rfl⟩ := List.mem_iff_getElem.mp hw
  have hr' : r < deg f := by simpa [bkmat] using hr
  have := bitCount_bkmat hf h64 hr' hh
  rwa [EuclideanDomain.mod_eq_zero.mpr hd, Polynomial.coeff_zero, List.getD_eq_getElem _ _ hr] at this

open Polynomial in
/-- Where f is a product of two coprime factors, some h other than 0 and 1 has h^2 = h modulo f. -/
theorem exists_idempotent {f : Nat} (hf : f ≠ 0) {a b : (ZMod 2)[X]} (hab : polyOf f = a * b) (hc : IsCoprime a b)
    (ha : ¬ IsUnit a) (hb : ¬ IsUnit b) : ∃ h, 2 ≤ h ∧ h < 2 ^ deg f ∧ polyOf f ∣ polyOf h ^ 2 + polyOf h := by
  have hf' : polyOf f ≠ 0 := fun h => hf (polyOf_eq_zero.mp h)
  obtain ⟨u, w, huw⟩ := hc
  obtain ⟨h, hlt, hh⟩ := exists_polyOf_eq (n := deg f) (p := (u * a) % polyOf f)
    (by rw [← degree_polyOf hf]; exact degree_mod_lt _ hf')
  obtain ⟨q, hq⟩ := dvd_mod_sub (u * a) (polyOf f)
  rw [← hh, hab] at hq
  have hA : polyOf h = a * (u + b * q) := by linear_combination hq
  have hB : polyOf h + 1 = b * (w + a * q) := by linear_combination hq - huw + (u * a) * two_eq_zero
  refine ⟨h, ?_, hlt, ⟨(u + b * q) * (w + a * q), ?_⟩⟩
  · by_contra hlt2
    rcases (by omega : h = 0 ∨ h = 1) with rfl | rfl
    · rw [polyOf_zero, zero_add] at hB
      exact hb (IsUnit.of_mul_eq_one _ hB.symm)
    · rw [polyOf_one] at hA
      exact ha (IsUnit.of_mul_eq_one _ hA.symm)
  · rw [hab]
    linear_combination (polyOf h + 1) * hA + a * (u + b * q) * hB

/-- A square-free polynomial whose Berlekamp matrix has a kernel of dimension 1 is irreducible (R162). -/
theorem irreducible_of_rankof {f : Nat} (hf : 2 ≤ deg f) (h64 : deg f ≤ 64) (hsep : (polyOf f).Separable)
    (hr : deg f - rankof (deg f) (bkmat f) = 1) : Irreducible (polyOf f) := by
  have hf0 : f ≠ 0 := by have := deg_pos_iff.mp (by omega : 1 ≤ deg f); omega
  have hnu : ¬ IsUnit (polyOf f) := fun h => by
    have := Polynomial.natDegree_eq_zero_of_isUnit h
    rw [natDegree_polyOf] at this
    omega
  by_contra hirr
  obtain ⟨a, b, hab, ha, hb⟩ : ∃ a b, polyOf f = a * b ∧ ¬ IsUnit a ∧ ¬ IsUnit b := by
    simpa [irreducible_iff, hnu] using hirr
  obtain ⟨h, h2, hlt, hd⟩ := exists_idempotent hf0 hab ((hab ▸ hsep).isCoprime) ha hb
  have h1 : (1 : Nat) < 2 ^ deg f := Nat.one_lt_two_pow (by omega)
  have hlog : Nat.log2 1 ≠ Nat.log2 h := by
    have := (Nat.le_log2 (by omega : h ≠ 0)).mpr (by omega : 2 ^ 1 ≤ h)
    have : Nat.log2 1 = 0 := by decide
    omega
  have := rankof_add_two_le (bkmat_lt f) (inKernel_bkmat (h := 1) (by omega) h64 h1 (by
    rw [polyOf_one]; exact ⟨0, by linear_combination two_eq_zero⟩)) (inKernel_bkmat (by omega) h64 hlt hd)
    one_ne_zero (by omega) h1 hlt hlog h64
  omega

/-! ## Factor lists -/

/-- A factor list in order: strictly ascending bases with a property, multiplicities at least 1 (10_state.md R34). -/
def Ordered (P : Nat → Prop) (l : FacList) : Prop :=
  (l.map Prod.fst).Pairwise (· < ·) ∧ ∀ p ∈ l, P p.1 ∧ 1 ≤ p.2

/-- The product of a factor list, its bases read by `w`. -/
def listProd {M : Type} [CommMonoid M] (w : Nat → M) (l : FacList) : M := (l.map fun p => w p.1 ^ p.2).prod

theorem ordered_nil (P : Nat → Prop) : Ordered P [] := ⟨List.Pairwise.nil, by simp⟩

theorem fst_mem_facInsert {l : FacList} {b m k : Nat} (h : k ∈ (facInsert l b m).map Prod.fst) :
    k = b ∨ k ∈ l.map Prod.fst := by
  induction l with
  | nil => simpa [facInsert] using h
  | cons p t ih =>
    obtain ⟨c, n⟩ := p
    rw [facInsert] at h
    split at h
    · exact .inr h
    · split at h
      · simpa using h
      · rcases List.mem_cons.mp h with rfl | h
        · simp
        · exact (ih h).imp_right (List.mem_cons_of_mem _)

theorem Ordered.facInsert {P : Nat → Prop} {l : FacList} (h : Ordered P l) {b m : Nat} (hb : P b) (hm : 1 ≤ m) :
    Ordered P (facInsert l b m) := by
  induction l with
  | nil => exact ⟨List.pairwise_singleton _ _, by simpa [Machine.facInsert] using ⟨hb, hm⟩⟩
  | cons p t ih =>
    obtain ⟨c, n⟩ := p
    obtain ⟨hasc, hmem⟩ := h
    rw [List.map_cons, List.pairwise_cons] at hasc
    rw [List.forall_mem_cons] at hmem
    rw [Machine.facInsert]
    split
    next e =>
      exact ⟨List.pairwise_cons.mpr hasc, List.forall_mem_cons.mpr ⟨⟨hmem.1.1, by simp only; omega⟩, hmem.2⟩⟩
    next hne =>
      split
      next hlt =>
        refine ⟨List.pairwise_cons.mpr ⟨List.forall_mem_cons.mpr ⟨hlt, fun k hk => hlt.trans (hasc.1 k hk)⟩,
          List.pairwise_cons.mpr hasc⟩, ?_⟩
        exact List.forall_mem_cons.mpr ⟨⟨hb, hm⟩, List.forall_mem_cons.mpr hmem⟩
      next hge =>
        obtain ⟨iasc, imem⟩ := ih ⟨hasc.2, hmem.2⟩
        refine ⟨List.pairwise_cons.mpr ⟨fun k hk => ?_, iasc⟩, List.forall_mem_cons.mpr ⟨hmem.1, imem⟩⟩
        rcases fst_mem_facInsert hk with rfl | hk
        · simp only; omega
        · exact hasc.1 k hk

theorem listProd_facInsert {M : Type} [CommMonoid M] (w : Nat → M) (l : FacList) (b m : Nat) :
    listProd w (facInsert l b m) = listProd w l * w b ^ m := by
  induction l with
  | nil => simp [facInsert, listProd]
  | cons p t ih =>
    obtain ⟨c, n⟩ := p
    rw [facInsert]
    split
    next e => subst e; simp only [listProd, List.map_cons, List.prod_cons, pow_add]; exact mul_right_comm _ _ _
    · split
      · simp only [listProd, List.map_cons, List.prod_cons]; exact mul_comm _ _
      · simp only [listProd, List.map_cons, List.prod_cons] at ih ⊢; rw [ih, mul_assoc]

theorem Ordered.facMerge {P : Nat → Prop} {l g : FacList} (hl : Ordered P l) (hg : Ordered P g) :
    Ordered P (facMerge l g) := by
  obtain ⟨-, hg⟩ := hg
  unfold Machine.facMerge
  induction g generalizing l with
  | nil => exact hl
  | cons p t ih =>
    rw [List.forall_mem_cons] at hg
    exact ih (hl.facInsert hg.1.1 hg.1.2) hg.2

theorem listProd_facMerge {M : Type} [CommMonoid M] (w : Nat → M) (l g : FacList) :
    listProd w (facMerge l g) = listProd w l * listProd w g := by
  unfold facMerge
  induction g generalizing l with
  | nil => simp [listProd]
  | cons p t ih =>
    rw [List.foldl_cons, ih, listProd_facInsert]
    simp [listProd, mul_assoc]

theorem Ordered.facScale {P : Nat → Prop} {l : FacList} (h : Ordered P l) {k : Nat} (hk : 1 ≤ k) :
    Ordered P (facScale l k) := by
  refine ⟨by simpa [Machine.facScale, Function.comp_def] using h.1, fun p hp => ?_⟩
  obtain ⟨q, hq, rfl⟩ := List.mem_map.mp hp
  exact ⟨(h.2 q hq).1, Nat.mul_pos (h.2 q hq).2 hk⟩

theorem listProd_facScale {M : Type} [CommMonoid M] (w : Nat → M) (l : FacList) (k : Nat) :
    listProd w (facScale l k) = listProd w l ^ k := by
  induction l with
  | nil => simp [facScale, listProd]
  | cons p t ih =>
    simp only [facScale, listProd, List.map_cons, List.prod_cons] at ih ⊢
    rw [ih, pow_mul, mul_pow]

theorem isPolyFactors_iff {f : Nat} {l : FacList} :
    IsPolyFactors f l ↔ Ordered (fun b => Irreducible (polyOf b)) l ∧ listProd polyOf l = polyOf f :=
  and_assoc.symm

theorem isIntFactors_iff {n : Nat} {l : FacList} :
    IsIntFactors n l ↔ Ordered Nat.Prime l ∧ listProd id l = n :=
  and_assoc.symm

theorem IsPolyFactors.merge {f g k : Nat} {l l' : FacList} (hl : IsPolyFactors f l) (hl' : IsPolyFactors g l')
    (h : polyOf k = polyOf f * polyOf g) : IsPolyFactors k (facMerge l l') := by
  rw [isPolyFactors_iff] at *
  exact ⟨hl.1.facMerge hl'.1, by rw [listProd_facMerge, hl.2, hl'.2, h]⟩

theorem IsPolyFactors.square {f k : Nat} {l : FacList} (hl : IsPolyFactors f l) (h : polyOf k = polyOf f ^ 2) :
    IsPolyFactors k (facScale l 2) := by
  rw [isPolyFactors_iff] at *
  exact ⟨hl.1.facScale (by omega), by rw [listProd_facScale, hl.2, h]⟩

theorem isPolyFactors_singleton {f : Nat} (h : Irreducible (polyOf f)) : IsPolyFactors f [(f, 1)] :=
  ⟨List.pairwise_singleton _ _, by simpa using h, by simp⟩

/-! ## Derivative and square root -/

theorem testBit_oddMask (j : Nat) : oddMask.testBit j = (decide (j % 2 = 1) && decide (j < 64)) := by
  by_cases hj : j < 64
  · have : ∀ j < 64, oddMask.testBit j = decide (j % 2 = 1) := by decide
    simp [this j hj, hj]
  · rw [Nat.testBit_lt_two_pow (lt_of_lt_of_le (by decide : oddMask < 2 ^ 64)
      (Nat.pow_le_pow_right (by omega) (not_lt.mp hj)))]
    simp [hj]

/-- pderiv is the formal derivative (R136). -/
theorem polyOf_pderiv {a : Nat} (h : a < 2 ^ 64) : polyOf (pderiv a) = Polynomial.derivative (polyOf a) := by
  ext j
  rw [Polynomial.coeff_derivative, coeff_polyOf, coeff_polyOf, pderiv, Nat.testBit_shiftRight, Nat.testBit_and,
    testBit_oddMask, Nat.add_comm 1 j]
  by_cases hj : j + 1 < 64
  · have hpar : ((j : ZMod 2) + 1) = if (j + 1) % 2 = 1 then 1 else 0 := by
      have : ((j : ZMod 2) + 1) = ((j + 1 : Nat) : ZMod 2) := by push_cast; rfl
      rw [this, ← ZMod.natCast_mod]
      rcases Nat.mod_two_eq_zero_or_one (j + 1) with h | h <;> simp [h]
    rw [hpar]
    cases a.testBit (j + 1) <;> simp [hj]
  · rw [Nat.testBit_lt_two_pow (h.trans_le (Nat.pow_le_pow_right (by omega) (not_lt.mp hj)))]
    simp

theorem testBit_evenBits (a n j : Nat) : (evenBits a n).testBit j = (decide (j < n) && a.testBit (2 * j)) := by
  induction n with
  | zero => simp [evenBits]
  | succ n ih =>
    have : ∀ b : Bool, (b.toNat <<< n).testBit j = (decide (j = n) && b) := by
      intro b
      cases b
      · simp
      · rw [Bool.toNat_true, Nat.one_shiftLeft, Nat.testBit_two_pow, Bool.and_true]
        exact decide_eq_decide.mpr eq_comm
    rw [evenBits, Nat.testBit_or, ih, this]
    rcases lt_trichotomy j n with hj | rfl | hj
    · simp [hj, hj.ne, Nat.lt_succ_of_lt hj]
    · simp
    · simp [hj.ne', not_lt.mpr hj.le, show ¬ j < n + 1 by omega]

open Polynomial in
/-- The root squares to a polynomial without odd coefficients (R137). -/
theorem polyOf_evenBits_sq {a : Nat} (h : a < 2 ^ 64) (hodd : ∀ j, a.testBit (2 * j + 1) = false) :
    polyOf (evenBits a 32) ^ 2 = polyOf a := by
  ext k
  have hexp : polyOf (evenBits a 32) ^ 2 = expand (ZMod 2) 2 (polyOf (evenBits a 32)) := (ZMod.expand_card _).symm
  rw [hexp, coeff_expand (by omega), coeff_polyOf, coeff_polyOf, testBit_evenBits]
  by_cases hk : 2 ∣ k
  · obtain ⟨j, rfl⟩ := hk
    rw [if_pos (Nat.dvd_mul_right 2 j), Nat.mul_div_cancel_left j (by omega)]
    by_cases hj : j < 32
    · simp [hj]
    · rw [Nat.testBit_lt_two_pow (h.trans_le (Nat.pow_le_pow_right (by omega) (by omega)))]
      simp
  · obtain ⟨j, rfl⟩ : ∃ j, k = 2 * j + 1 := ⟨k / 2, by omega⟩
    rw [if_neg hk, hodd j]
    rfl

theorem testBit_odd_of_and_oddMask {a : Nat} (h : a < 2 ^ 64) (ho : a &&& oddMask = 0) (j : Nat) :
    a.testBit (2 * j + 1) = false := by
  by_cases hj : 2 * j + 1 < 64
  · have := congrArg (Nat.testBit · (2 * j + 1)) ho
    simpa [Nat.testBit_and, testBit_oddMask, hj, Nat.add_mod] using this
  · exact Nat.testBit_lt_two_pow (h.trans_le (Nat.pow_le_pow_right (by omega) (not_lt.mp hj)))

/-- A polynomial whose derivative is 0 is the square of its root (R137). -/
theorem polyOf_psqrt_sq {a : Nat} (h : a < 2 ^ 64) (hd : pderiv a = 0) : polyOf ((psqrt a).getD 0) ^ 2 = polyOf a := by
  have ho : a &&& oddMask = 0 := by
    apply Nat.eq_of_testBit_eq
    intro j
    cases j with
    | zero =>
      rw [Nat.testBit_and, testBit_oddMask]
      simp
    | succ j =>
      have := congrArg (Nat.testBit · j) hd
      simpa [pderiv, Nat.testBit_shiftRight, Nat.add_comm 1 j] using this
  rw [psqrt, if_neg (not_not.mpr ho)]
  exact polyOf_evenBits_sq h (testBit_odd_of_and_oddMask h ho)

end Sys2Proof.Machine
end

section
/-! PROOFS. The full mode of preBerlekamp factors over GF(2) (42_f2polyfactor.md R162, R163, R170, R171). -/

namespace Sys2Proof.Machine

/-! ## Factorisation over GF(2) -/

/-- Where f divides h (h + 1), its greatest common divisors with h and with h + 1 split it (R162). -/
theorem polyOf_eq_mul_pgcd {f h : Nat} (hf : f ≠ 0) (hd : polyOf f ∣ polyOf h * (polyOf h + 1)) :
    polyOf f = polyOf (pgcd f h) * polyOf (pgcd f (h ^^^ 1)) := by
  have hf' : polyOf f ≠ 0 := fun h => hf (polyOf_eq_zero.mp h)
  have hx : polyOf (h ^^^ 1) = polyOf h + 1 := by rw [polyOf_xor, polyOf_one]
  obtain ⟨h1, e1⟩ := pxgcd_spec f h
  obtain ⟨h2, e2⟩ := pxgcd_spec f (h ^^^ 1)
  obtain ⟨hf1, hh1⟩ := (dvd_pgcd f h _).mp dvd_rfl
  obtain ⟨hf2, hh2⟩ := (dvd_pgcd f (h ^^^ 1) _).mp dvd_rfl
  rw [h1] at e1
  rw [h2, hx] at e2
  rw [hx] at hh2
  generalize pgcd f h = g1 at *
  generalize pgcd f (h ^^^ 1) = g2 at *
  obtain ⟨c, hc⟩ := hd
  have hcop : IsCoprime (polyOf g1) (polyOf g2) := by
    obtain ⟨x, hx⟩ := hh1
    obtain ⟨y, hy⟩ := hh2
    exact ⟨-x, y, by linear_combination hx - hy⟩
  have hdvd : polyOf f ∣ polyOf g1 * polyOf g2 := by
    rw [e1, e2]
    generalize polyOf (pxgcd f h).2.1 = u1 at *
    generalize polyOf (pxgcd f h).2.2 = v1 at *
    generalize polyOf (pxgcd f (h ^^^ 1)).2.1 = u2 at *
    generalize polyOf (pxgcd f (h ^^^ 1)).2.2 = v2 at *
    exact ⟨u1 * u2 * polyOf f + u1 * v2 * (polyOf h + 1) + v1 * u2 * polyOf h + v1 * v2 * c,
      by linear_combination v1 * v2 * hc⟩
  have h0 : polyOf g1 * polyOf g2 ≠ 0 := mul_ne_zero (ne_zero_of_dvd_ne_zero hf' hf1) (ne_zero_of_dvd_ne_zero hf' hf2)
  exact Polynomial.eq_of_monic_of_associated (monic_of_ne_zero hf') (monic_of_ne_zero h0)
    (associated_of_dvd_dvd hdvd (hcop.mul_dvd hf1 hf2))

theorem deg_of_mul {f g k : Nat} (hf : f ≠ 0) (h : polyOf f = polyOf g * polyOf k) :
    g ≠ 0 ∧ k ≠ 0 ∧ deg f = deg g + deg k := by
  have hf' : polyOf f ≠ 0 := fun h => hf (polyOf_eq_zero.mp h)
  rw [h] at hf'
  obtain ⟨hg, hk⟩ := mul_ne_zero_iff.mp hf'
  refine ⟨fun e => hg (e ▸ polyOf_zero), fun e => hk (e ▸ polyOf_zero), ?_⟩
  rw [← natDegree_polyOf, h, Polynomial.natDegree_mul hg hk, natDegree_polyOf, natDegree_polyOf]

theorem deg_one : deg 1 = 0 := by decide

theorem deg_pos {f : Nat} (h0 : f ≠ 0) (h1 : f ≠ 1) : 1 ≤ deg f := deg_pos_iff.mpr (by omega)

theorem lt_two_pow_64_of_deg_le {f g : Nat} (hg : g < 2 ^ 64) (h : deg f ≤ deg g) : f < 2 ^ 64 :=
  lt_two_pow_of_deg_lt (h.trans_lt (deg_lt_of_lt_two_pow (by omega) hg))

/-- What the full mode of the search for a splitting kernel vector answers (R162): two proper factors, factored. -/
theorem splitBy_eq_ok {factor : Nat → Except FatalCode FacList} {f : Nat} (hf : f ≠ 0) {ks : List Nat} {l : FacList}
    (h : splitBy factor f false ks = .ok l) :
    ∃ f1 f2 l1 l2, polyOf f = polyOf f1 * polyOf f2 ∧ f1 ≠ 1 ∧ f2 ≠ 1 ∧ factor f1 = .ok l1 ∧ factor f2 = .ok l2 ∧
      l = facMerge l1 l2 := by
  induction ks with
  | nil => cases h
  | cons k ks ih =>
    unfold splitBy at h
    split at h
    · exact ih h
    · simp only at h
      split at h
      · cases h
      next hid =>
        split at h
        · exact ih h
        next hsplit =>
          rw [not_or] at hid hsplit
          have hsq : polyOf f ∣ polyOf k * (polyOf k + 1) := by
            have he := congrArg polyOf (not_not.mp hid.1)
            rw [pmulmod, polyOf_pmodp _ hf, polyOf_clmul] at he
            obtain ⟨q, hq⟩ := dvd_mod_sub (polyOf k * polyOf k) (polyOf f)
            rw [he] at hq
            exact ⟨-q, by linear_combination -hq + polyOf k * two_eq_zero⟩
          rw [if_neg (by simp)] at h
          split at h
          next l1 l2 h1 h2 =>
            cases h
            exact ⟨_, _, l1, l2, polyOf_eq_mul_pgcd hf hsq, hsplit.1, hsplit.2, h1, h2, rfl⟩
          · cases h
          · cases h

/-- Berlekamp's algorithm in the full mode factors a square-free polynomial, where `factor` factors those of lower
degree (R162). -/
theorem isPolyFactors_of_berlekamp {factor : Nat → Except FatalCode FacList} {f : Nat} {l : FacList} (hf : 1 ≤ deg f)
    (h64 : f < 2 ^ 64) (hsep : (polyOf f).Separable)
    (hfac : ∀ g, g ≠ 0 → g ≠ 1 → deg g < deg f → ∀ l, factor g = .ok l → IsPolyFactors g l)
    (h : berlekamp factor f false = .ok l) : IsPolyFactors f l := by
  have hf0 : f ≠ 0 := by have := deg_pos_iff.mp hf; omega
  have hd64 : deg f < 64 := deg_lt_of_lt_two_pow (by omega) h64
  unfold berlekamp at h
  simp only at h
  split at h
  next h2 =>
    cases h
    refine isPolyFactors_singleton (Polynomial.irreducible_of_degree_eq_one ?_)
    rw [degree_polyOf hf0, show deg f = 1 by omega]
    rfl
  next h2 =>
    split at h
    next hr =>
      cases h
      exact isPolyFactors_singleton (irreducible_of_rankof (by omega) (by omega) hsep hr)
    next hr =>
      split at h
      · cases h
      next ks hk =>
        obtain ⟨f1, f2, l1, l2, hmul, h1, h2, hl1, hl2, rfl⟩ := splitBy_eq_ok hf0 h
        obtain ⟨h10, h20, hdeg⟩ := deg_of_mul hf0 hmul
        have := deg_pos h10 h1
        have := deg_pos h20 h2
        exact (hfac f1 h10 h1 (by omega) l1 hl1).merge (hfac f2 h20 h2 (by omega) l2 hl2) hmul

/-- The full mode of preBerlekamp, with enough calls, factors over GF(2) (R163, R170, R171). -/
theorem isPolyFactors_of_preBerlekamp {n f : Nat} {l : FacList} (hf : 1 ≤ deg f) (hn : deg f < n) (h64 : f < 2 ^ 64)
    (h : preBerlekamp n false f = .ok l) : IsPolyFactors f l := by
  induction n generalizing f l with
  | zero => omega
  | succ n ih =>
    have hf0 : f ≠ 0 := by have := deg_pos_iff.mp hf; omega
    have hd64 : deg f < 64 := deg_lt_of_lt_two_pow (by omega) h64
    have hfac : ∀ g, g ≠ 0 → g ≠ 1 → deg g < deg f → ∀ l, preBerlekamp n false g = .ok l → IsPolyFactors g l :=
      fun g h0 h1 hlt l hl => ih (deg_pos h0 h1) (by omega) (lt_two_pow_64_of_deg_le h64 hlt.le) hl
    obtain ⟨hgf, hgd⟩ := (dvd_pgcd f (pderiv f) _).mp dvd_rfl
    have hg0 : pgcd f (pderiv f) ≠ 0 := fun e => by
      rw [e, polyOf_zero, zero_dvd_iff, polyOf_eq_zero] at hgf
      exact hf0 hgf
    rw [preBerlekamp] at h
    rw [if_neg hg0] at h
    split at h
    next hg1 =>
      have hsep : (polyOf f).Separable := by
        rw [Polynomial.separable_def, ← polyOf_pderiv h64]
        exact (pgcd_eq_one_iff _ _).mp hg1
      exact isPolyFactors_of_berlekamp hf h64 hsep hfac h
    next hg1 =>
      split at h
      next hd =>
        have hsq := polyOf_psqrt_sq h64 hd
        obtain ⟨h0, -, hdeg⟩ := deg_of_mul hf0 (hsq.symm.trans (pow_two _))
        split at h
        next l' hl' =>
          cases h
          exact (hfac _ h0 (fun e => by rw [e, deg_one] at hdeg; omega) (by omega) _ hl').square
            hsq.symm
        · cases h
      next hd =>
        have hq : polyOf f = polyOf (pgcd f (pderiv f)) * polyOf (pquorem f (pgcd f (pderiv f))).1 := by
          rw [(polyOf_pquorem f hg0).1, EuclideanDomain.mul_div_cancel' _ hgf]
          exact fun e => hg0 (polyOf_eq_zero.mp e)
        obtain ⟨-, hk0, hdeg⟩ := deg_of_mul hf0 hq
        have hlt : deg (pgcd f (pderiv f)) < deg f := by
          have h1 := Polynomial.natDegree_le_of_dvd hgd (fun e => hd (polyOf_eq_zero.mp e))
          have h2 := Polynomial.natDegree_derivative_lt (p := polyOf f) (by rw [natDegree_polyOf]; omega)
          rw [polyOf_pderiv h64] at h1
          rw [natDegree_polyOf] at h1 h2
          omega
        have hgpos := deg_pos hg0 hg1
        split at h
        next l1 l2 h1 h2 =>
          cases h
          refine (hfac _ hg0 hg1 hlt _ h1).merge (hfac _ hk0 (fun e => ?_) (by omega) _ h2) hq
          rw [e, deg_one] at hdeg
          omega
        · cases h
        · cases h

end Sys2Proof.Machine
end

section
/-! PROOFS. Trial division factors (44_intarith.md R217), and every factorisation of a word fits FAC (10_state.md R34). -/

namespace Sys2Proof.Machine

/-! ## Trial division -/

/-- Dividing out the least candidate leaves only greater prime factors (R217). -/
theorem divideOut_spec {c : Nat} (hc : 2 ≤ c) (n v : Nat) (l : FacList) (hv : 0 < v) (hn : v ≤ n)
    (hmin : ∀ p, p.Prime → p ∣ v → c ≤ p) (hl : Ordered Nat.Prime l) :
    let r := divideOut c n v l
    Ordered Nat.Prime r.2 ∧ listProd id r.2 * r.1 = listProd id l * v ∧ 0 < r.1 ∧ r.1 ≤ v ∧
      ∀ p, p.Prime → p ∣ r.1 → c < p := by
  induction n generalizing v l with
  | zero => omega
  | succ n ih =>
    rw [divideOut]
    split
    next h0 =>
      obtain ⟨w, rfl⟩ := Nat.dvd_of_mod_eq_zero h0
      have hw : 0 < w := Nat.pos_of_mul_pos_left hv
      have hlt : w < c * w := by nlinarith
      have hcp : c.Prime := by
        have h1 := Nat.minFac_prime (by omega : c ≠ 1)
        have h2 := hmin _ h1 ((Nat.minFac_dvd c).mul_right w)
        rwa [← le_antisymm h2 (Nat.minFac_le (by omega))] at h1
      rw [Nat.mul_div_cancel_left w (by omega)]
      obtain ⟨hord, hprod, hpos, hle, hgt⟩ := ih w (facInsert l c 1) hw (by omega)
        (fun p hp hd => hmin p hp (hd.mul_left c)) (hl.facInsert hcp le_rfl)
      refine ⟨hord, ?_, hpos, by omega, hgt⟩
      rw [hprod, listProd_facInsert, pow_one, id, mul_assoc]
    next h0 =>
      refine ⟨hl, rfl, hv, le_rfl, fun p hp hd => lt_of_le_of_ne (hmin p hp hd) ?_⟩
      rintro rfl
      exact h0 (Nat.mod_eq_zero_of_dvd hd)

/-- Trial division by the odd candidates completes the factorisation (R217). -/
theorem trialLoop_spec (n c v : Nat) (l : FacList) (hc : 3 ≤ c) (hodd : c % 2 = 1) (hv : 0 < v) (hn : v < c + 2 * n)
    (hmin : ∀ p, p.Prime → p ∣ v → c ≤ p) (hl : Ordered Nat.Prime l) :
    Ordered Nat.Prime (trialLoop n c v l) ∧ listProd id (trialLoop n c v l) = listProd id l * v := by
  have hmf : v ≠ 1 → c ≤ v.minFac := fun h => hmin _ (Nat.minFac_prime h) (Nat.minFac_dvd v)
  induction n generalizing c v l with
  | zero =>
    obtain rfl : v = 1 := by
      by_contra h
      have := hmf h
      have := Nat.minFac_le hv
      omega
    exact ⟨hl, (mul_one _).symm⟩
  | succ n ih =>
    rw [trialLoop]
    split
    next hlt =>
      split
      next h1 =>
        have hp : v.Prime := by
          by_contra hnp
          have h2 := Nat.minFac_sq_le_self hv hnp
          have h3 := hmf (by omega)
          nlinarith
        exact ⟨hl.facInsert hp le_rfl, by rw [listProd_facInsert, pow_one, id]⟩
      next h1 =>
        obtain rfl : v = 1 := by omega
        exact ⟨hl, (mul_one _).symm⟩
    next hge =>
      obtain ⟨hord, hprod, hpos, hle, hgt⟩ := divideOut_spec (by omega) v v l hv le_rfl hmin hl
      have hnext : ∀ p, p.Prime → p ∣ (divideOut c v v l).1 → c + 2 ≤ p := fun p hp hd => by
        have h1 := hgt p hp hd
        have h2 := hp.eq_two_or_odd
        omega
      obtain ⟨h1, h2⟩ := ih (c + 2) _ _ (by omega) (by omega) hpos (by omega) hnext hord
        (fun h => hnext _ (Nat.minFac_prime h) (Nat.minFac_dvd _))
      exact ⟨h1, h2.trans hprod⟩

/-- The factor list of a positive integer is its prime factorisation (R217). -/
theorem isIntFactors_factorNat {v : Nat} (hv : 0 < v) : IsIntFactors v (factorNat v) := by
  obtain ⟨hord, hprod, hpos, -, hgt⟩ := divideOut_spec (c := 2) le_rfl v v [] hv le_rfl
    (fun p hp _ => hp.two_le) (ordered_nil _)
  obtain ⟨h1, h2⟩ := trialLoop_spec ((divideOut 2 v v []).1 + 1) 3 (divideOut 2 v v []).1 (divideOut 2 v v []).2
    le_rfl rfl hpos (by omega) hgt hord
  refine isIntFactors_iff.mpr ⟨h1, h2.trans (hprod.trans ?_)⟩
  simp [listProd]

/-! ## How long a factor list can be -/

/-- A set of weighted bases against a set `T` that holds every base of weight below `M`: no set of as many bases has a
smaller product. -/
theorem prod_mul_pow_card_le {S T : Finset Nat} {w : Nat → Nat} {M : Nat} (hS : ∀ b ∈ S, b ∉ T → M ≤ w b)
    (hT : ∀ b ∈ T, w b ≤ M) : (∏ b ∈ T, w b) * M ^ S.card ≤ (∏ b ∈ S, w b) * M ^ T.card := by
  have hTS : ∏ b ∈ T \ S, w b ≤ M ^ (T \ S).card :=
    Finset.prod_le_pow_card _ _ _ fun b hb => hT b (Finset.mem_sdiff.mp hb).1
  have hST : M ^ (S \ T).card ≤ ∏ b ∈ S \ T, w b :=
    Finset.pow_card_le_prod _ _ _ fun b hb => hS b (Finset.mem_sdiff.mp hb).1 (Finset.mem_sdiff.mp hb).2
  calc (∏ b ∈ T, w b) * M ^ S.card
      = (∏ b ∈ T ∩ S, w b) * (∏ b ∈ T \ S, w b) * (M ^ (S ∩ T).card * M ^ (S \ T).card) := by
        rw [Finset.prod_inter_mul_prod_sdiff, ← pow_add, Finset.card_inter_add_card_sdiff]
    _ ≤ (∏ b ∈ T ∩ S, w b) * M ^ (T \ S).card * (M ^ (S ∩ T).card * ∏ b ∈ S \ T, w b) :=
        Nat.mul_le_mul (Nat.mul_le_mul_left _ hTS) (Nat.mul_le_mul_left _ hST)
    _ = ((∏ b ∈ S ∩ T, w b) * ∏ b ∈ S \ T, w b) * (M ^ (T ∩ S).card * M ^ (T \ S).card) := by
        rw [Finset.inter_comm T S]; ring
    _ = (∏ b ∈ S, w b) * M ^ T.card := by
        rw [Finset.prod_inter_mul_prod_sdiff, ← pow_add, Finset.card_inter_add_card_sdiff]

theorem one_le_listProd {w : Nat → Nat} {l : FacList} (hw : ∀ p ∈ l, 1 ≤ w p.1) : 1 ≤ listProd w l :=
  List.prod_pos (List.forall_mem_map.mpr fun p hp => Nat.pow_pos (n := p.2) (hw p hp))

theorem pow_le_listProd {w : Nat → Nat} {l : FacList} (hw : ∀ p ∈ l, 1 ≤ w p.1) {p : Nat × Nat} (hp : p ∈ l) :
    w p.1 ^ p.2 ≤ listProd w l :=
  Nat.le_of_dvd (one_le_listProd hw) (List.dvd_prod (List.mem_map_of_mem (f := fun p => w p.1 ^ p.2) hp))

/-- The product of the bases alone, as a set, is at most the product of the list. -/
theorem prod_bases_le_listProd {P : Nat → Prop} {w : Nat → Nat} {l : FacList} (hl : Ordered P l)
    (hw : ∀ p ∈ l, 1 ≤ w p.1) : ∏ b ∈ (l.map Prod.fst).toFinset, w b ≤ listProd w l := by
  obtain ⟨hasc, hmem⟩ := hl
  rw [List.prod_toFinset _ (hasc.imp fun h => h.ne), List.map_map, listProd]
  clear hasc
  induction l with
  | nil => exact le_rfl
  | cons p t ih =>
    rw [List.forall_mem_cons] at hw hmem
    rw [List.map_cons, List.map_cons, List.prod_cons, List.prod_cons]
    exact Nat.mul_le_mul (Nat.le_self_pow (by omega) _) (ih hw.2 hmem.2)

/-- The number of bases, from the weights of a set `T` that holds every base of weight below `M`. -/
theorem prod_mul_pow_length_le {P : Nat → Prop} {w : Nat → Nat} {l : FacList} {T : Finset Nat} {M : Nat}
    (hl : Ordered P l) (hw : ∀ p ∈ l, 1 ≤ w p.1) (hP : ∀ b, P b → b ∉ T → M ≤ w b) (hT : ∀ b ∈ T, w b ≤ M) :
    (∏ b ∈ T, w b) * M ^ l.length ≤ listProd w l * M ^ T.card := by
  have hcard : (l.map Prod.fst).toFinset.card = l.length := by
    rw [List.toFinset_card_of_nodup (hl.1.imp fun h => h.ne), List.length_map]
  rw [← hcard]
  refine (prod_mul_pow_card_le (fun b hb => ?_) hT).trans (Nat.mul_le_mul_right _ (prod_bases_le_listProd hl hw))
  obtain ⟨p, hp, rfl⟩ := List.mem_map.mp (List.mem_toFinset.mp hb)
  exact hP _ (hl.2 p hp).1

/-- A factor list that FAC can hold: the invariants of 10_state.md R34, and words in its entries. -/
structure Storable (l : FacList) : Prop where
  ordered : Ordered (fun b => 2 ≤ b ∧ b < 2 ^ 64) l
  multiplicity : ∀ p ∈ l, p.2 ≤ 63
  length : l.length ≤ 15

theorem multiplicity_le {w : Nat → Nat} {l : FacList} (hw : ∀ p ∈ l, 2 ≤ w p.1) (h : listProd w l < 2 ^ 64)
    {p : Nat × Nat} (hp : p ∈ l) : p.2 ≤ 63 := by
  have h1 := pow_le_listProd (w := w) (fun q hq => by have := hw q hq; omega) hp
  have h2 : 2 ^ p.2 ≤ w p.1 ^ p.2 := Nat.pow_le_pow_left (hw p hp) _
  have h3 : 2 ^ p.2 < 2 ^ 64 := by omega
  have := (Nat.pow_lt_pow_iff_right (by omega)).mp h3
  omega

/-- The primes below 53. -/
def smallPrimes : Finset Nat := {2, 3, 5, 7, 11, 13, 17, 19, 23, 29, 31, 37, 41, 43, 47}

theorem mem_smallPrimes {p : Nat} (hp : p.Prime) (h : p < 53) : p ∈ smallPrimes := by
  have hdiv : ∀ q ∈ [2, 3, 5, 7], p % q = 0 → p = q := fun q hq h0 => by
    refine ((hp.eq_one_or_self_of_dvd q (Nat.dvd_of_mod_eq_zero h0)).resolve_left ?_).symm
    rintro rfl
    exact absurd hq (by decide)
  have key : ∀ p < 53, 2 ≤ p → (∀ q ∈ [2, 3, 5, 7], p % q = 0 → p = q) → p ∈ smallPrimes := by decide
  exact key p h hp.two_le hdiv

/-- A prime factorisation of at most 2^63 fits FAC: sixteen primes have a greater product. -/
theorem IsIntFactors.storable {n : Nat} {l : FacList} (h : IsIntFactors n l) (hn : n ≤ 2 ^ 63) : Storable l := by
  obtain ⟨hord, hprod⟩ := isIntFactors_iff.mp h
  have h2 : ∀ p ∈ l, 2 ≤ p.1 := fun p hp => (hord.2 p hp).1.two_le
  have h1 : ∀ p ∈ l, 1 ≤ id p.1 := fun p hp => by have := h2 p hp; simp only [id]; omega
  have hle : ∀ p ∈ l, p.1 ≤ n := fun p hp =>
    hprod ▸ (Nat.le_self_pow (by have := (hord.2 p hp).2; omega) _).trans (pow_le_listProd h1 hp)
  refine ⟨⟨hord.1, fun p hp => ⟨⟨h2 p hp, by have := hle p hp; omega⟩, (hord.2 p hp).2⟩⟩,
    fun p hp => multiplicity_le (w := id) h2 (by omega) hp, ?_⟩
  have hlen := prod_mul_pow_length_le (T := smallPrimes) (M := 53) hord h1
    (fun b hb hT => not_lt.mp fun hlt => hT (mem_smallPrimes hb hlt)) (by decide)
  rw [hprod] at hlen
  by_contra hlong
  have : 53 ^ 16 ≤ 53 ^ l.length := Nat.pow_le_pow_right (by omega) (by omega)
  have hT : (∏ b ∈ smallPrimes, id b) = 614889782588491410 := by decide
  have hc : smallPrimes.card = 15 := by decide
  rw [hT, hc] at hlen
  omega

/-- The irreducible polynomials of degree at most 5. -/
def smallIrreducibles : Finset Nat := {2, 3, 7, 11, 13, 19, 25, 31, 37, 41, 47, 55, 59, 61}

theorem eq_of_irreducible_of_pmodp {b q : Nat} (hb : Irreducible (polyOf b)) (hq : 2 ≤ q) (h : pmodp b q = 0) :
    b = q := by
  have hq0 : polyOf q ≠ 0 := fun e => by have := polyOf_eq_zero.mp e; omega
  have hd : polyOf q ∣ polyOf b := by
    rw [← EuclideanDomain.mod_eq_zero, ← polyOf_pmodp b (by omega : q ≠ 0), h, polyOf_zero]
  have hnu : ¬ IsUnit (polyOf q) := fun hu => by
    have h1 := Polynomial.natDegree_eq_zero_of_isUnit hu
    rw [natDegree_polyOf] at h1
    have := deg_pos_iff.mpr hq
    omega
  have hassoc := (hb.dvd_iff.mp hd).resolve_left hnu
  exact polyOf_injective (Polynomial.eq_of_monic_of_associated (monic_of_ne_zero hb.ne_zero) (monic_of_ne_zero hq0) hassoc)

theorem two_le_of_irreducible {b : Nat} (hb : Irreducible (polyOf b)) : 2 ≤ b := by
  by_contra h
  rcases (by omega : b = 0 ∨ b = 1) with rfl | rfl
  · exact hb.ne_zero polyOf_zero
  · exact hb.not_isUnit (by rw [polyOf_one]; exact isUnit_one)

theorem mem_smallIrreducibles {b : Nat} (hb : Irreducible (polyOf b)) (h : b < 64) : b ∈ smallIrreducibles := by
  have key : ∀ b < 64, 2 ≤ b → (∀ q ∈ [2, 3, 7], pmodp b q = 0 → b = q) → b ∈ smallIrreducibles := by decide +kernel
  refine key b h (two_le_of_irreducible hb) fun q hq => eq_of_irreducible_of_pmodp hb ?_
  revert q
  decide

/-- Degrees add over the factors of a list. -/
theorem two_pow_natDegree_listProd {l : FacList} (h : ∀ p ∈ l, p.1 ≠ 0) :
    (listProd polyOf l).Monic ∧ 2 ^ (listProd polyOf l).natDegree = listProd (fun b => 2 ^ deg b) l := by
  induction l with
  | nil => simp [listProd]
  | cons p t ih =>
    rw [List.forall_mem_cons] at h
    obtain ⟨hm, hd⟩ := ih h.2
    have hp : (polyOf p.1).Monic := monic_of_ne_zero fun e => h.1 (polyOf_eq_zero.mp e)
    simp only [listProd, List.map_cons, List.prod_cons] at hm hd ⊢
    refine ⟨(hp.pow _).mul hm, ?_⟩
    rw [(hp.pow _).natDegree_mul hm, hp.natDegree_pow, pow_add, hd, natDegree_polyOf, mul_comm p.2, pow_mul]

/-- A factorisation over GF(2) of a word fits FAC: sixteen irreducible polynomials have a product of degree at least
64. -/
theorem IsPolyFactors.storable {f : Nat} {l : FacList} (h : IsPolyFactors f l) (hf : f < 2 ^ 64) : Storable l := by
  obtain ⟨hord, hprod⟩ := isPolyFactors_iff.mp h
  have h2 : ∀ p ∈ l, 2 ≤ p.1 := fun p hp => two_le_of_irreducible (hord.2 p hp).1
  have hw2 : ∀ p ∈ l, 2 ≤ 2 ^ deg p.1 := fun p hp =>
    Nat.le_self_pow (by have := deg_pos_iff.mpr (h2 p hp); omega) 2
  have hw1 : ∀ p ∈ l, 1 ≤ 2 ^ deg p.1 := fun p _ => Nat.one_le_two_pow
  have hdeg : 2 ^ deg f = listProd (fun b => 2 ^ deg b) l := by
    rw [← (two_pow_natDegree_listProd fun p hp => by have := h2 p hp; omega).2, hprod, natDegree_polyOf]
  have h63 : 2 ^ deg f ≤ 2 ^ 63 :=
    Nat.pow_le_pow_right (by omega) (by have := deg_lt_of_lt_two_pow (by omega) hf; omega)
  have hle : ∀ p ∈ l, p.1 < 2 ^ 64 := fun p hp => by
    have h1 : 2 ^ deg p.1 ≤ 2 ^ deg f :=
      hdeg ▸ (Nat.le_self_pow (by have := (hord.2 p hp).2; omega) _).trans
        (pow_le_listProd (w := fun b => 2 ^ deg b) hw1 hp)
    have h3 := (Nat.pow_le_pow_iff_right (by omega)).mp h1
    exact lt_two_pow_64_of_deg_le hf h3
  refine ⟨⟨hord.1, fun p hp => ⟨⟨h2 p hp, hle p hp⟩, (hord.2 p hp).2⟩⟩,
    fun p hp => multiplicity_le (w := fun b => 2 ^ deg b) hw2 (by omega) hp, ?_⟩
  have hlen := prod_mul_pow_length_le (T := smallIrreducibles) (M := 2 ^ 6) (w := fun b => 2 ^ deg b) hord hw1
    (fun b hb hT => Nat.pow_le_pow_right (by omega) (not_lt.mp fun hlt =>
      hT (mem_smallIrreducibles hb (lt_two_pow_of_deg_lt hlt)))) (by decide +kernel)
  rw [← hdeg] at hlen
  by_contra hlong
  have : (2 ^ 6) ^ 16 ≤ (2 ^ 6) ^ l.length := Nat.pow_le_pow_right (by omega) (by omega)
  have hT : (∏ b ∈ smallIrreducibles, 2 ^ deg b) = 2 ^ 52 := by decide +kernel
  have hc : smallIrreducibles.card = 14 := by decide
  rw [hT, hc] at hlen
  omega

/-! ## What PFACTOR and IFACTOR list -/

/-- What pfactor answers (R164): a trivial factor and no list for a degree of 0, else the factorisation. -/
theorem pfactor_eq_ok {f : Nat} {t : Option Nat} {l : FacList} (hf : f < 2 ^ 64) (h : pfactor f = .ok (t, l)) :
    (f < 2 ∧ t = some f ∧ l = []) ∨ (2 ≤ f ∧ t = none ∧ IsPolyFactors f l) := by
  unfold pfactor at h
  split at h
  next h0 =>
    cases h
    exact .inl ⟨not_le.mp fun h2 => by have := deg_pos_iff.mpr h2; omega, rfl, rfl⟩
  next h0 =>
    split at h
    next l' hl =>
      cases h
      exact .inr ⟨deg_pos_iff.mp (by omega), rfl, isPolyFactors_of_preBerlekamp (by omega) (by omega) hf hl⟩
    · cases h

theorem storable_nil : Storable [] := ⟨ordered_nil _, by simp, by simp⟩

theorem storable_pfactor {f : Nat} {t : Option Nat} {l : FacList} (hf : f < 2 ^ 64) (h : pfactor f = .ok (t, l)) :
    Storable l := by
  rcases pfactor_eq_ok hf h with ⟨-, -, rfl⟩ | ⟨-, -, hl⟩
  · exact storable_nil
  · exact hl.storable hf

end Sys2Proof.Machine
end

section
/-! PROOFS. What every command does in a sound state: it reaches no missing cell, and writes one of few things. -/

namespace Sys2Proof.Machine

/-! ## Results without a fault -/

/-- A result that is no fault, and whose state, if it has one, has a property. -/
def Safe (P : State → Prop) : Result → Prop
  | .ok s => P s
  | .error (.fault _) => False
  | .error _ => True

section
variable {P : State → Prop}

@[simp] theorem safe_ok (s : State) : Safe P (.ok s) ↔ P s := Iff.rfl
@[simp] theorem safe_fails (e : ErrCode) : Safe P (fails e) := trivial

@[simp] theorem safe_needCtx {v : Bool} {k : Result} : Safe P (needCtx v k) ↔ (v = true → Safe P k) := by
  cases v <;> simp

theorem safe_needIndex {i : Int} {n : Nat} {k : Nat → Result} (h : ∀ j < n, Safe P (k j)) :
    Safe P (needIndex i n k) := by
  unfold needIndex
  split
  · exact safe_fails _
  · exact h _ (by omega)

theorem safe_memRead {s : State} {b : BankName} {i n : Nat} {k : Nat → Result} (hi : i < b.cap)
    (h : ∀ v, Safe P (k v)) : Safe P (onCell (s.memRead b i n) k) := by
  rw [memRead_eq hi]
  exact h _

theorem safe_memWrite {s : State} {b : BankName} {i n v : Nat} {k : State → Result} (hi : i < b.cap)
    (hw : bankWf b.cap (s.bank b)) (h : ∀ m, bankWf b.cap m → Safe P (k (s.setBank b m))) :
    Safe P (onCell (s.memWrite b i n v) k) := by
  rw [memWrite_eq hi]
  exact h _ (bankWf_bankWrite hw hi _)

/-- Storing a list from the first cell on: the cells hold the masked values. -/
theorem safe_memWriteAll {s : State} {b : BankName} {n : Nat} {vs : List Nat} {k : State → Result}
    (hl : vs.length ≤ b.cap) (hw : bankWf b.cap (s.bank b))
    (h : ∀ m, bankWf b.cap m → (∀ j, (hj : j < vs.length) → bankRead m j = BitVec.ofNat 64 (vs[j] % 2 ^ n)) →
      Safe P (k (s.setBank b m))) :
    Safe P (onCell (State.memWriteAll b n vs 0 s) k) := by
  obtain ⟨t, ht⟩ := memWriteAll_exists (b := b) (n := n) vs 0 s (by omega)
  obtain ⟨-, m, rfl, hm, hr⟩ := memWriteAll_ok ht hw
  rw [ht]
  refine h m hm fun j hj => ?_
  rw [hr, if_pos (by omega), Nat.sub_zero, List.getD_eq_getElem _ _ hj]

@[simp] theorem safe_onFatal {α : Type} {a : Except FatalCode α} {k : α → Result} :
    Safe P (onFatal a k) ↔ ∀ v, a = .ok v → Safe P (k v) := by
  cases a with
  | ok v => simp
  | error f => simp [onFatal, Safe]

@[simp] theorem safe_needInt63 {n : Nat} {k : Result} : Safe P (needInt63 n k) ↔ (n < 2 ^ 63 → Safe P k) := by
  unfold needInt63
  split
  next h => exact ⟨fun _ h' => absurd h' (not_lt.mpr h), fun _ => safe_fails _⟩
  next h => exact ⟨fun hk _ => hk, fun hk => hk (not_le.mp h)⟩

@[simp] theorem safe_ite {c : Prop} [Decidable c] {a b : Result} :
    Safe P (if c then a else b) ↔ (c → Safe P a) ∧ (¬ c → Safe P b) := by
  split <;> simp_all

@[simp] theorem safe_needInverse {o : Option Nat} {a : Nat} {k : Nat → Result} :
    Safe P (needInverse o a k) ↔ ∀ r, o = some r → Safe P (k r) := by
  cases o with
  | none => simp [needInverse]
  | some r => simp [needInverse]

@[simp] theorem safe_orderResult {rd : Reg} {s : State} {o : Option Nat} :
    Safe P (orderResult rd s o) ↔ ∀ d, o = some d → P (s.setNat rd d) := by
  cases o with
  | none => simp [orderResult]
  | some d => simp [orderResult]

/-- How a command ends whose result is no fault. -/
theorem exists_finish_next {s : State} {r : Result} (h : Safe P r) :
    ∃ t, finish s r = .next t ∧ ((∃ s', P s' ∧ t = s'.setCode 0) ∨ (∃ e, t = raise e s) ∨ ∃ f, t = fatal f s) := by
  match r, h with
  | .ok s', h => exact ⟨_, rfl, .inl ⟨s', h, rfl⟩⟩
  | .error (.err e), _ => exact ⟨_, rfl, .inr (.inl ⟨e, rfl⟩)⟩
  | .error (.fatal f), _ => exact ⟨_, rfl, .inr (.inr ⟨f, rfl⟩)⟩

end

/-! ## What a command can write -/

/-- The results a command can write in a sound state `s`. -/
inductive Wrote (s : State) : State → Prop where
  /-- Operand registers. -/
  | regs (x : Vector Word 16) : Wrote s { s with x := x }
  /-- Cells of MAT, the dimensions kept. -/
  | cells (m : Bank) : bankWf BankName.mat.cap m → Wrote s { s with mat := m }
  /-- A new matrix. -/
  | matrix (m : Bank) (r c : Nat) : bankWf BankName.mat.cap m → 1 ≤ r → r ≤ 64 → 1 ≤ c → c ≤ 64 →
      Wrote s ({ s with mdim := dimWord r c, mat := m }.setMatv true)
  /-- The kernel basis of a valid matrix. -/
  | kernel (m : Bank) (k : Nat) : bankWf BankName.ker.cap m → s.matv = true → k ≤ 64 →
      Wrote s ({ s with kdim := dimWord k s.ncols, ker := m }.setKerv true)
  /-- A factor list with its kind and its trivial factor (10_state.md R34). -/
  | factors (mb mm : Bank) (kind : Nat) (triv : Option Word) (l : FacList) : bankWf BankName.facb.cap mb →
      bankWf BankName.facm.cap mm → Storable l → HoldsPairs mb mm l →
      (kind = 1 ∧ (triv = none ∨ triv = some 0 ∨ triv = some 1) ∨
        kind = 2 ∧ (triv = some 1 ∨ triv = some (BitVec.allOnes 64))) →
      Wrote s { s with facb := mb, facm := mm, fstat := fstatWord l.length kind triv.isSome, ftriv := triv.getD 0 }
  /-- A polynomial modulus. -/
  | polyModulus (v : Word) : v ≠ 0 → Wrote s ({ s with pmod := v }.setPmodv true)
  /-- An integer modulus. -/
  | intModulus (v : Word) : 0 < v.toInt → Wrote s ({ s with imod := v }.setImodv true)

@[simp] theorem wrote_set (s : State) (r : Reg) (v : Word) : Wrote s (s.set r v) := .regs _
@[simp] theorem wrote_set_set (s : State) (r r' : Reg) (v v' : Word) : Wrote s ((s.set r v).set r' v') := .regs _
@[simp] theorem wrote_set_set_set (s : State) (r r' r'' : Reg) (v v' v'' : Word) :
    Wrote s (((s.set r v).set r' v').set r'' v'') := .regs _

/-- How a command can end that began in a sound state `s`. -/
inductive Ended (s : State) : State → Prop where
  | done {s' : State} : Wrote s s' → Ended s (s'.setCode 0)
  | raised (e : ErrCode) : Ended s (raise e s)
  | fatal (f : FatalCode) : Ended s (Machine.fatal f s)
  | noMatrix : Ended s (raise .construct (s.setMatv false))
  | noPolyModulus : Ended s (raise .construct (s.setPmodv false))
  | noIntModulus : Ended s (raise .construct (s.setImodv false))
  | searching (j : Search) : 1 ≤ j.degree → j.degree ≤ 63 → Ended s { s with search := some j }

theorem ended_finish {s : State} {r : Result} (h : Safe (Wrote s) r) : ∃ t, finish s r = .next t ∧ Ended s t := by
  obtain ⟨t, ht, ⟨s', hs', rfl⟩ | ⟨e, rfl⟩ | ⟨f, rfl⟩⟩ := exists_finish_next (s := s) h
  · exact ⟨_, ht, .done hs'⟩
  · exact ⟨_, ht, .raised e⟩
  · exact ⟨_, ht, .fatal f⟩

/-! ## Every command, in a sound state -/

section
variable {s : State} (hi : Inv s)
include hi

theorem Inv.row_lt {i : Nat} (h : i < s.nrows) : i < BankName.mat.cap := h.trans_le hi.mdim.2.1

theorem Inv.matRows_eq : ∃ rows, s.matRows = .ok rows ∧ rows.length = s.nrows :=
  ⟨_, memReadAll_eq _ _ (by have := hi.mdim.2.1; simpa [BankName.cap, Config.maxRows] using this), by simp⟩

theorem ended_mnew (rs1 rs2 : Reg) : ∃ t, exec (.mnew rs1 rs2) s = .next t ∧ Ended s t := by
  simp only [exec, execMnew]
  split
  · exact ⟨_, rfl, .noMatrix⟩
  next h =>
    simp only [not_or, Config.maxRows, Config.maxCols] at h
    refine ended_finish (safe_memWriteAll ?_ hi.memory.1 fun m hm _ => ?_)
    · simp [BankName.cap, Config.maxRows]
      omega
    · exact .matrix m _ _ hm (by omega) (by omega) (by omega) (by omega)

theorem ended_msetrow (rs1 rs2 : Reg) : ∃ t, exec (.msetrow rs1 rs2) s = .next t ∧ Ended s t := by
  refine ended_finish (safe_needCtx.mpr fun _ => safe_needIndex fun i h => ?_)
  exact safe_memWrite (hi.row_lt h) hi.memory.1 fun m hm => .cells m hm

theorem ended_mgetrow (rd rs1 : Reg) : ∃ t, exec (.mgetrow rd rs1) s = .next t ∧ Ended s t := by
  refine ended_finish (safe_needCtx.mpr fun _ => safe_needIndex fun i h => ?_)
  exact safe_memRead (hi.row_lt h) fun v => wrote_set _ _ _

theorem ended_kgetrow (rd rs1 : Reg) : ∃ t, exec (.kgetrow rd rs1) s = .next t ∧ Ended s t := by
  refine ended_finish (safe_needCtx.mpr fun _ => safe_needIndex fun i h => ?_)
  exact safe_memRead (b := .ker) (h.trans_le hi.kdim.2.1) fun v => wrote_set _ _ _

theorem ended_bvget (rd rs1 rs2 : Reg) : ∃ t, exec (.bvget rd rs1 rs2) s = .next t ∧ Ended s t := by
  refine ended_finish (safe_needCtx.mpr fun _ => safe_needIndex fun i h => safe_needIndex fun j _ => ?_)
  exact safe_memRead (hi.row_lt h) fun v => wrote_set _ _ _

theorem ended_bvset (rs1 rs2 : Reg) : ∃ t, exec (.bvset rs1 rs2) s = .next t ∧ Ended s t := by
  refine ended_finish (safe_needCtx.mpr fun _ => safe_needIndex fun i h => safe_needIndex fun j _ => ?_)
  exact safe_memRead (hi.row_lt h) fun v => safe_memWrite (hi.row_lt h) hi.memory.1 fun m hm => .cells m hm

theorem ended_bvtgl (rs1 rs2 : Reg) : ∃ t, exec (.bvtgl rs1 rs2) s = .next t ∧ Ended s t := by
  refine ended_finish (safe_needCtx.mpr fun _ => safe_needIndex fun i h => safe_needIndex fun j _ => ?_)
  exact safe_memRead (hi.row_lt h) fun v => safe_memWrite (hi.row_lt h) hi.memory.1 fun m hm => .cells m hm

theorem ended_bvlead (rd rs1 : Reg) : ∃ t, exec (.bvlead rd rs1) s = .next t ∧ Ended s t := by
  refine ended_finish (safe_needCtx.mpr fun _ => safe_needIndex fun i h => ?_)
  exact safe_memRead (hi.row_lt h) fun v => wrote_set _ _ _

theorem ended_mref : ∃ t, exec .mref s = .next t ∧ Ended s t := by
  obtain ⟨rows, hrows, hlen⟩ := hi.matRows_eq
  refine ended_finish (safe_needCtx.mpr fun _ => ?_)
  rw [hrows, onCell_ok]
  refine safe_memWriteAll ?_ hi.memory.1 fun m hm _ => .cells m hm
  rw [length_rref, hlen]
  exact hi.mdim.2.1

theorem ended_mrank (rd : Reg) : ∃ t, exec (.mrank rd) s = .next t ∧ Ended s t := by
  obtain ⟨rows, hrows, -⟩ := hi.matRows_eq
  refine ended_finish (safe_needCtx.mpr fun _ => ?_)
  rw [hrows, onCell_ok]
  exact wrote_set _ _ _

theorem ended_mker : ∃ t, exec .mker s = .next t ∧ Ended s t := by
  obtain ⟨rows, hrows, -⟩ := hi.matRows_eq
  refine ended_finish (safe_needCtx.mpr fun hv => ?_)
  rw [hrows, onCell_ok]
  refine safe_onFatal.mpr fun basis hb => ?_
  have hlen : basis.length ≤ 64 := (length_kernelBasis hb).trans hi.mdim.2.2
  exact safe_memWriteAll hlen hi.memory.2.1 fun m hm _ => .kernel m _ hm hv hlen

theorem ended_bkmat (rs1 : Reg) : ∃ t, exec (.bkmat rs1) s = .next t ∧ Ended s t := by
  have hd : deg (s.u64 rs1) < 64 := deg_lt_of_lt_two_pow (by omega) (u64_lt s rs1)
  refine ended_finish (safe_ite.mpr ⟨fun _ => safe_fails _, fun h => ?_⟩)
  refine safe_memWriteAll ?_ hi.memory.1 fun m hm _ => .matrix m _ _ hm (by omega) (by omega) (by omega) (by omega)
  simp [bkmat, BankName.cap, Config.maxRows]
  omega

/-- Storing a factor list that FAC can hold. -/
theorem safe_storeFactors {kind : Nat} {triv : Option Word} {l : FacList} (hl : Storable l)
    (hk : kind = 1 ∧ (triv = none ∨ triv = some 0 ∨ triv = some 1) ∨
      kind = 2 ∧ (triv = some 1 ∨ triv = some (BitVec.allOnes 64))) :
    Safe (Wrote s) (s.storeFactors kind triv l) := by
  have hcap : l.length ≤ 16 := hl.length.trans (by omega)
  refine safe_memWriteAll (by rwa [List.length_map]) hi.memory.2.2.1 fun mb hmb hb => ?_
  refine safe_memWriteAll (by rwa [List.length_map]) hi.memory.2.2.2 fun mm hmm hm => ?_
  refine .factors mb mm kind triv l hmb hmm hl (fun i h => ?_) hk
  have hmem := List.getElem_mem h
  have hbase := (hl.ordered.2 _ hmem).1
  have hmul := hl.multiplicity _ hmem
  rw [hb i (by simpa using h), hm i (by simpa using h)]
  simp only [List.getElem_map, BitVec.toNat_ofNat, Nat.mod_mod]
  exact ⟨Nat.mod_eq_of_lt hbase.2, Nat.mod_eq_of_lt (by omega)⟩

theorem ended_pfactor (rs1 : Reg) : ∃ t, exec (.pfactor rs1) s = .next t ∧ Ended s t := by
  refine ended_finish (safe_onFatal.mpr fun tl htl => ?_)
  refine safe_storeFactors hi (storable_pfactor (u64_lt s rs1) htl) (.inl ⟨rfl, ?_⟩)
  rcases pfactor_eq_ok (u64_lt s rs1) htl with ⟨h2, ht, -⟩ | ⟨-, ht, -⟩
  · rw [ht]
    rcases (by omega : s.u64 rs1 = 0 ∨ s.u64 rs1 = 1) with h | h
    · exact .inr (.inl (by rw [h]; rfl))
    · exact .inr (.inr (by rw [h]; rfl))
  · exact .inl (by rw [ht]; rfl)

theorem ended_ifactor (rs1 : Reg) : ∃ t, exec (.ifactor rs1) s = .next t ∧ Ended s t := by
  refine ended_finish (safe_ite.mpr ⟨fun _ => safe_fails _, fun h => ?_⟩)
  have h1 := s64_lt s rs1
  have h2 := le_s64 s rs1
  refine safe_storeFactors hi ((isIntFactors_factorNat (by omega)).storable (by omega)) (.inr ⟨rfl, ?_⟩)
  simp only [ifactor, signOf]
  split
  · exact .inr rfl
  · exact .inl rfl

theorem ended_fget (rd rd2 rs1 : Reg) : ∃ t, exec (.fget rd rd2 rs1) s = .next t ∧ Ended s t := by
  refine ended_finish (safe_needCtx.mpr fun _ => safe_needIndex fun i h => ?_)
  refine safe_memRead (b := .facb) (h.trans_le hi.fstat.2.1) fun b => ?_
  exact safe_memRead (b := .facm) (h.trans_le hi.fstat.2.1) fun m => wrote_set_set _ _ _ _ _

end

theorem ended_pmsetmod (s : State) (rs1 : Reg) : ∃ t, exec (.pmsetmod rs1) s = .next t ∧ Ended s t := by
  simp only [exec, execPmsetmod]
  split
  · exact ⟨_, rfl, .noPolyModulus⟩
  next h => exact ended_finish (r := .ok _) (.polyModulus _ fun e => h (by rw [State.u64, e]; rfl))

theorem ended_imsetmod (s : State) (rs1 : Reg) : ∃ t, exec (.imsetmod rs1) s = .next t ∧ Ended s t := by
  simp only [exec, execImsetmod]
  split
  · exact ⟨_, rfl, .noIntModulus⟩
  next h => exact ended_finish (r := .ok _) (.intModulus _ (not_le.mp h))

/-- PRANDIRR over the supplied draws (R167, R325): `rest` are those it leaves. -/
theorem ended_searchSupplied {j : Search} (h1 : 1 ≤ j.degree) (h63 : j.degree ≤ 63) (ws : List Word) (s : State) :
    ∃ rest t, searchSupplied j ws s = .next t ∧ Ended { s with rnd := rest, search := none } t := by
  induction ws with
  | nil => exact ⟨[], _, rfl, .searching j h1 h63⟩
  | cons w ws ih =>
    unfold searchSupplied
    split
    · exact ih
    next hne =>
      unfold searchDraw
      split
      · exact ⟨ws, _, rfl, .fatal _⟩
      · exact ⟨ws, _, rfl, .done (wrote_set _ _ _)⟩
      next h => exact absurd h hne

theorem ended_prandirr (s : State) (hs : s.search = none) (rd rs1 : Reg) :
    ∃ rest t, exec (.prandirr rd rs1) s = .next t ∧ Ended { s with rnd := rest, search := none } t := by
  simp only [exec, execPrandirr]
  split
  · exact ⟨s.rnd, _, rfl, by rw [← hs]; exact .raised .undef⟩
  · exact ended_searchSupplied (by simp only; omega) (by simp only; omega) _ _

/-- The commands that read and write nothing but operand registers and read no bank: they need no invariant. -/
theorem ended_registers (i : Instr) (s : State) (h : i.opcode ∉ [0x10, 0x11, 0x12, 0x13, 0x14, 0x15, 0x16, 0x17, 0x18,
    0x19, 0x1A, 0x30, 0x31, 0x32, 0x35, 0x40, 0x57, 0x60]) : ∃ t, exec i s = .next t ∧ Ended s t := by
  cases i <;> simp [Instr.opcode] at h
  case psqrt rd rd2 rs1 =>
    refine ended_finish ?_
    split <;> simp
  case plowirr rd rs1 =>
    refine ended_finish (safe_ite.mpr ⟨fun _ => safe_fails _, fun _ => safe_onFatal.mpr fun c _ => ?_⟩)
    split <;> simp
  case imodrecip rd rs1 rs2 =>
    refine ended_finish (safe_ite.mpr ⟨fun _ => safe_fails _, fun _ => safe_ite.mpr ⟨fun _ => safe_fails _, fun _ => ?_⟩⟩)
    split <;> simp
  case idivnext rd rs1 rs2 =>
    refine ended_finish (safe_ite.mpr ⟨fun _ => safe_fails _, fun _ => ?_⟩)
    split <;> simp
  case pdeg | padd | psub | pgcd | pderiv => exact ended_finish (r := .ok _) (wrote_set _ _ _)
  case pxgcd => exact ended_finish (r := .ok _) (wrote_set_set_set _ _ _ _ _ _ _)
  all_goals exact ended_finish (by simp)

/-- Every command begun in a sound state that searches nothing has a next state, and ends in one of the ways listed; a
PRANDIRR may have taken supplied draws (R46). -/
theorem exec_ended (i : Instr) {s : State} (hi : Inv s) (hs : s.search = none) :
    ∃ rest t, exec i s = .next t ∧ Ended { s with rnd := rest, search := none } t := by
  have here : (∃ t, exec i s = .next t ∧ Ended s t) →
      ∃ rest t, exec i s = .next t ∧ Ended { s with rnd := rest, search := none } t := fun ⟨t, ht, he⟩ =>
    ⟨s.rnd, t, ht, by rw [← hs]; exact he⟩
  cases i
  case prandirr rd rs1 => exact ended_prandirr s hs rd rs1
  all_goals refine here ?_
  case mnew rs1 rs2 => exact ended_mnew hi rs1 rs2
  case msetrow rs1 rs2 => exact ended_msetrow hi rs1 rs2
  case mgetrow rd rs1 => exact ended_mgetrow hi rd rs1
  case kgetrow rd rs1 => exact ended_kgetrow hi rd rs1
  case bvget rd rs1 rs2 => exact ended_bvget hi rd rs1 rs2
  case bvset rs1 rs2 => exact ended_bvset hi rs1 rs2
  case bvtgl rs1 rs2 => exact ended_bvtgl hi rs1 rs2
  case bvlead rd rs1 => exact ended_bvlead hi rd rs1
  case mref => exact ended_mref hi
  case mrank rd => exact ended_mrank hi rd
  case mker => exact ended_mker hi
  case bkmat rs1 => exact ended_bkmat hi rs1
  case pfactor rs1 => exact ended_pfactor hi rs1
  case fget rd rd2 rs1 => exact ended_fget hi rd rd2 rs1
  case pmsetmod rs1 => exact ended_pmsetmod s rs1
  case ifactor rs1 => exact ended_ifactor hi rs1
  case imsetmod rs1 => exact ended_imsetmod s rs1
  all_goals exact ended_registers _ s (by simp [Instr.opcode])

end Sys2Proof.Machine
end

section
/-! PROOFS. Soundness: the invariants of 10_state.md hold after reset and every step keeps them. -/

namespace Sys2Proof.Machine

/-! ## The invariants through each update -/

/-- The parts of the invariants that speak of STATUS, after a write to it. -/
theorem Inv.withStatus {s : State} (hi : Inv s) {st : Word}
    (hz : st.extractLsb' 13 51 = 0)
    (hcode : { s with status := st }.code ≤ 11 ∨
      32 ≤ { s with status := st }.code ∧ { s with status := st }.code ≤ 35)
    (hfatal : { s with status := st }.fatal = true ↔ 32 ≤ { s with status := st }.code)
    (hsearch : ∀ j, s.search = some j → { s with status := st }.fatal = false)
    (hp : { s with status := st }.pmodv = true → s.pmod ≠ 0)
    (him : { s with status := st }.imodv = true → 0 < s.imod.toInt)
    (hm : { s with status := st }.matv = true → 1 ≤ s.nrows ∧ 1 ≤ s.ncols)
    (hk : { s with status := st }.kerv = true → 1 ≤ s.kcols) : Inv { s with status := st } :=
  { hi with
    statusZero := hz
    code := hcode
    fatalCode := hfatal
    pmod := hp
    imod := him
    matv := hm
    kerv := hk
    search := fun j hj => ⟨(hi.search j hj).1, (hi.search j hj).2.1, hsearch j hj⟩ }

/-- Writing a field below bit 13 of STATUS leaves the bits above. -/
theorem Inv.statusZero_setField {s : State} (hi : Inv s) {n lo : Nat} (v : BitVec n) (h : lo + n ≤ 13) :
    (setField s.status lo v).extractLsb' 13 51 = 0 := by
  rw [extractLsb'_setField_of_disjoint _ _ _ _ _ (by omega) (by omega)]
  exact hi.statusZero

section
variable {s : State} (hi : Inv s)
include hi

/-- A recoverable code, or 0, outside the fatal state. -/
theorem Inv.setCode (hf : s.fatal = false) {c : Nat} (hc : c ≤ 11) : Inv (s.setCode c) := by
  have hcode : (s.setCode c).code = c := by rw [code_setCode]; omega
  have hfatal : (s.setCode c).fatal = false := by rw [fatal_setCode, hf]
  refine hi.withStatus (hi.statusZero_setField _ (by omega)) (.inl (hcode.trans_le hc)) ?_ (fun _ _ => hfatal)
    (fun h => hi.pmod (by rwa [← pmodv_setCode s c])) (fun h => hi.imod (by rwa [← imodv_setCode s c]))
    (fun h => hi.matv (by rwa [← matv_setCode s c])) (fun h => hi.kerv (by rwa [← kerv_setCode s c]))
  change (s.setCode c).fatal = true ↔ 32 ≤ (s.setCode c).code
  rw [hfatal, hcode]
  simp only [Bool.false_eq_true, false_iff]
  omega

/-- A fatal code, where no search is in progress. -/
theorem Inv.setFatalCode (hs : s.search = none) (f : FatalCode) : Inv ((s.setCode f.num).setFatal true) := by
  have hcode : ((s.setCode f.num).setFatal true).code = f.num := by
    rw [code_setFatal, code_setCode, Nat.mod_eq_of_lt f.num_lt]
  have hnum : 32 ≤ f.num ∧ f.num ≤ 35 := by cases f <;> decide
  have hzero : (((s.setCode f.num).setFatal true).status).extractLsb' 13 51 = 0 := by
    rw [setFatal_status, extractLsb'_setField_of_disjoint _ _ _ _ _ (by omega) (by omega)]
    exact hi.statusZero_setField _ (by omega)
  refine hi.withStatus hzero (.inr (by rw [← hcode] at hnum; exact hnum)) ?_ (fun j hj => by rw [hs] at hj; cases hj)
    (fun h => hi.pmod ?_) (fun h => hi.imod ?_) (fun h => hi.matv ?_) (fun h => hi.kerv ?_)
  · change ((s.setCode f.num).setFatal true).fatal = true ↔ 32 ≤ ((s.setCode f.num).setFatal true).code
    simp [hcode, hnum.1]
  · rwa [← pmodv_setCode s f.num, ← pmodv_setFatal _ true]
  · rwa [← imodv_setCode s f.num, ← imodv_setFatal _ true]
  · rwa [← matv_setCode s f.num, ← matv_setFatal _ true]
  · rwa [← kerv_setCode s f.num, ← kerv_setFatal _ true]

/-- A validity bit of STATUS, the context being in order where it is set. -/
theorem Inv.setFlag {lo : Nat} (h9 : 9 ≤ lo) (h12 : lo ≤ 12) (b : Bool)
    (hp : { s with status := setField s.status lo (BitVec.ofBool b) }.pmodv = true → s.pmod ≠ 0)
    (him : { s with status := setField s.status lo (BitVec.ofBool b) }.imodv = true → 0 < s.imod.toInt)
    (hm : { s with status := setField s.status lo (BitVec.ofBool b) }.matv = true → 1 ≤ s.nrows ∧ 1 ≤ s.ncols)
    (hk : { s with status := setField s.status lo (BitVec.ofBool b) }.kerv = true → 1 ≤ s.kcols) :
    Inv { s with status := setField s.status lo (BitVec.ofBool b) } := by
  have hcode : { s with status := setField s.status lo (BitVec.ofBool b) }.code = s.code :=
    congrArg BitVec.toNat (extractLsb'_setField_of_disjoint _ _ _ _ _ (by omega) (by omega))
  have hfatal : { s with status := setField s.status lo (BitVec.ofBool b) }.fatal = s.fatal :=
    (getLsbD_setField _ _ _ _ (by omega)).trans (if_neg (by omega))
  exact hi.withStatus (hi.statusZero_setField _ (by omega)) (by rw [hcode]; exact hi.code)
    (by rw [hfatal, hcode]; exact hi.fatalCode) (fun j hj => by rw [hfatal]; exact (hi.search j hj).2.2) hp him hm hk

theorem Inv.setPmodv {b : Bool} (h : b = true → s.pmod ≠ 0) : Inv (s.setPmodv b) :=
  hi.setFlag (lo := 9) le_rfl (by omega) b (fun h' => h ((pmodv_setPmodv s b).symm.trans h'))
    (fun h' => hi.imod ((imodv_setPmodv s b).symm.trans h')) (fun h' => hi.matv ((matv_setPmodv s b).symm.trans h'))
    (fun h' => hi.kerv ((kerv_setPmodv s b).symm.trans h'))

theorem Inv.setImodv {b : Bool} (h : b = true → 0 < s.imod.toInt) : Inv (s.setImodv b) :=
  hi.setFlag (lo := 10) (by omega) (by omega) b (fun h' => hi.pmod ((pmodv_setImodv s b).symm.trans h'))
    (fun h' => h ((imodv_setImodv s b).symm.trans h')) (fun h' => hi.matv ((matv_setImodv s b).symm.trans h'))
    (fun h' => hi.kerv ((kerv_setImodv s b).symm.trans h'))

theorem Inv.setMatv {b : Bool} (h : b = true → 1 ≤ s.nrows ∧ 1 ≤ s.ncols) : Inv (s.setMatv b) :=
  hi.setFlag (lo := 11) (by omega) (by omega) b (fun h' => hi.pmod ((pmodv_setMatv s b).symm.trans h'))
    (fun h' => hi.imod ((imodv_setMatv s b).symm.trans h')) (fun h' => h ((matv_setMatv s b).symm.trans h'))
    (fun h' => hi.kerv ((kerv_setMatv s b).symm.trans h'))

theorem Inv.setKerv {b : Bool} (h : b = true → 1 ≤ s.kcols) : Inv (s.setKerv b) :=
  hi.setFlag (lo := 12) (by omega) le_rfl b (fun h' => hi.pmod ((pmodv_setKerv s b).symm.trans h'))
    (fun h' => hi.imod ((imodv_setKerv s b).symm.trans h')) (fun h' => hi.matv ((matv_setKerv s b).symm.trans h'))
    (fun h' => h ((kerv_setKerv s b).symm.trans h'))

/-- The error record: a sticky bit of a code that exists, and ECMD. -/
theorem Inv.recordError {c : Nat} (hc : ((1 : Word) <<< c) &&& ~~~stickyBits = 0) (w : Word) :
    Inv { s.stick c with ecmd := w } := by
  refine { hi with esticky := ?_ }
  change (s.esticky ||| (1 : Word) <<< c) &&& ~~~stickyBits = 0
  rw [BitVec.and_comm, BitVec.and_or_distrib_left, BitVec.and_comm _ s.esticky, hi.esticky, BitVec.and_comm, hc]
  rfl

theorem Inv.raise (hf : s.fatal = false) (e : ErrCode) : Inv (raise e s) := by
  refine (hi.setCode hf ?_).recordError ?_ s.cmd <;> cases e <;> decide

theorem Inv.fatal (hs : s.search = none) (f : FatalCode) : Inv (Machine.fatal f s) := by
  refine (hi.setFatalCode hs f).recordError ?_ s.cmd
  cases f <;> decide

theorem Inv.setBank {b : BankName} {m : Bank} (hm : bankWf b.cap m) : Inv (s.setBank b m) := by
  cases b
  all_goals exact { hi with memory := Memory.wf_setBank hi.memory hm }

theorem Inv.setMdim {r c : Nat} (hr : 1 ≤ r ∧ r ≤ 64) (hc : 1 ≤ c ∧ c ≤ 64) : Inv { s with mdim := dimWord r c } := by
  have h1 : { s with mdim := dimWord r c }.nrows = r := rows_dimWord hr.2 hc.2
  have h2 : { s with mdim := dimWord r c }.ncols = c := cols_dimWord hr.2 hc.2
  exact { hi with
    mdim := by rw [h1, h2]; exact ⟨rfl, hr.2, hc.2⟩
    matv := fun _ => by rw [h1, h2]; exact ⟨hr.1, hc.1⟩ }

theorem Inv.setKdim {r c : Nat} (hr : r ≤ 64) (hc : 1 ≤ c ∧ c ≤ 64) : Inv { s with kdim := dimWord r c } := by
  have h1 : { s with kdim := dimWord r c }.krows = r := rows_dimWord hr hc.2
  have h2 : { s with kdim := dimWord r c }.kcols = c := cols_dimWord hr hc.2
  exact { hi with
    kdim := by rw [h1, h2]; exact ⟨rfl, hr, hc.2⟩
    kerv := fun _ => by rw [h2]; exact hc.1 }

/-- The state words of a factor list that fits FAC, with its trivial factor (10_state.md R34). -/
theorem Inv.setFactors {n kind : Nat} {triv : Option Word} {v w : Word} (hv : fstatWord n kind triv.isSome = v)
    (hw : triv.getD 0 = w) (hn : n ≤ 16)
    (hk : kind = 1 ∧ (triv = none ∨ triv = some 0 ∨ triv = some 1) ∨
      kind = 2 ∧ (triv = some 1 ∨ triv = some (BitVec.allOnes 64))) :
    Inv { s with fstat := v, ftriv := w } := by
  have hk2 : 1 ≤ kind ∧ kind ≤ 2 := by omega
  have h1 : { s with fstat := v, ftriv := w }.fcount = n := by
    rw [State.fcount, ← hv, count_fstatWord hn hk2.2]
  have h2 : { s with fstat := v, ftriv := w }.fkind = kind := by
    rw [State.fkind, ← hv, kind_fstatWord hn hk2.2]
  have h3 : { s with fstat := v, ftriv := w }.ftrivv = triv.isSome := by
    rw [State.ftrivv, ← hv, trivv_fstatWord hn hk2.2]
  refine { hi with fstat := ?_, ftriv := ?_ }
  · rw [h1, h2, h3]
    exact ⟨hv.symm, hn, hk2.2⟩
  rw [h1, h2, h3, ← hw]
  refine ⟨fun h => ?_, fun h => by omega, fun h => ?_, fun h => ?_⟩
  · rw [Option.isSome_eq_false_iff, Option.isNone_iff_eq_none] at h
    rw [h]
    rfl
  · obtain ⟨-, rfl | rfl | rfl⟩ := hk.resolve_right (by omega)
    exacts [.inl rfl, .inl rfl, .inr rfl]
  · obtain ⟨-, rfl | rfl⟩ := hk.resolve_left (by omega)
    exacts [⟨rfl, .inl rfl⟩, ⟨rfl, .inr rfl⟩]

/-- What a command writes keeps the invariants. -/
theorem Inv.wrote {s' : State} (h : Wrote s s') : Inv s' ∧ s'.fatal = s.fatal := by
  cases h with
  | regs x => exact ⟨{ hi with }, rfl⟩
  | cells m hm => exact ⟨hi.setBank (b := .mat) hm, rfl⟩
  | matrix m r c hm hr hr' hc hc' =>
    have hdim := (hi.setMdim ⟨hr, hr'⟩ ⟨hc, hc'⟩).setBank (b := .mat) hm
    refine ⟨hdim.setMatv fun _ => ?_, fatal_setMatv _ _⟩
    exact ⟨hr.trans_eq (rows_dimWord hr' hc').symm, hc.trans_eq (cols_dimWord hr' hc').symm⟩
  | kernel m k hm hv hk =>
    have hc := (hi.matv hv).2
    have hc' := hi.mdim.2.2
    have hdim := (hi.setKdim hk ⟨hc, hc'⟩).setBank (b := .ker) hm
    exact ⟨hdim.setKerv fun _ => hc.trans_eq (cols_dimWord hk hc').symm, fatal_setKerv _ _⟩
  | factors mb mm kind triv l hb hm hl _ hk =>
    have hbanks := (hi.setBank (b := .facb) hb).setBank (b := .facm) hm
    generalize hv : fstatWord l.length kind triv.isSome = v
    exact ⟨hbanks.setFactors hv rfl (hl.length.trans (by omega)) hk, rfl⟩
  | polyModulus v hv =>
    have hmod : Inv { s with pmod := v } := { hi with pmod := fun _ => hv }
    exact ⟨hmod.setPmodv fun _ => hv, fatal_setPmodv _ _⟩
  | intModulus v hv =>
    have hmod : Inv { s with imod := v } := { hi with imod := fun _ => hv }
    exact ⟨hmod.setImodv fun _ => hv, fatal_setImodv _ _⟩

/-- However a command ends, it keeps the invariants. -/
theorem Inv.ended (hf : s.fatal = false) (hs : s.search = none) {t : State} (h : Ended s t) : Inv t := by
  have hfalse {q : Prop} : false = true → q := fun h => by cases h
  cases h with
  | done hw =>
    obtain ⟨hi', hf'⟩ := hi.wrote hw
    exact hi'.setCode (hf'.trans hf) (by omega)
  | raised e => exact hi.raise hf e
  | fatal f => exact hi.fatal hs f
  | noMatrix => exact (hi.setMatv hfalse).raise ((fatal_setMatv _ _).trans hf) _
  | noPolyModulus => exact (hi.setPmodv hfalse).raise ((fatal_setPmodv _ _).trans hf) _
  | noIntModulus => exact (hi.setImodv hfalse).raise ((fatal_setImodv _ _).trans hf) _
  | searching j h1 h63 =>
    exact { hi with search := fun j' hj => by cases hj; exact ⟨h1, h63, hf⟩ }

end

/-! ## The factor list through each update -/

/-- The invariants of the factor list look at FSTAT and FAC only. -/
theorem FacOk.congr {s t : State} (h : FacOk s) (hf : t.fstat = s.fstat) (hb : t.facb = s.facb)
    (hm : t.facm = s.facm) : FacOk t := by
  have h1 : t.fcount = s.fcount := by rw [State.fcount, hf, State.fcount]
  have h2 : ∀ i, t.cell .facb i = s.cell .facb i := fun i => by simp only [State.cell, State.bank, hb]
  have h3 : ∀ i, t.cell .facm i = s.cell .facm i := fun i => by simp only [State.cell, State.bank, hm]
  refine ⟨fun i j hij hj => ?_, fun i hi => ?_, fun i hi => ?_⟩
  · rw [h2, h2]
    exact h.ascending i j hij (h1 ▸ hj)
  · rw [h2]
    exact h.base i (h1 ▸ hi)
  · rw [h3]
    exact h.multiplicity i (h1 ▸ hi)

/-- A stored list that FAC can hold is in order. -/
theorem facOk_of_holdsPairs {t : State} {l : FacList} (hl : Storable l) (hp : HoldsPairs t.facb t.facm l)
    (hc : t.fcount = l.length) : FacOk t := by
  refine ⟨fun i j hij hj => ?_, fun i hi => ?_, fun i hi => ?_⟩
  · rw [hc] at hj
    have h1 := (hp i (by omega)).1
    have h2 := (hp j hj).1
    have h3 := List.pairwise_iff_getElem.mp hl.ordered.1 i j (by simpa using by omega) (by simpa using hj) hij
    rw [List.getElem_map, List.getElem_map] at h3
    change (bankRead t.facb i).toNat < (bankRead t.facb j).toNat
    omega
  · rw [hc] at hi
    exact (hl.ordered.2 _ (List.getElem_mem hi)).1.1.trans_eq (hp i hi).1.symm
  · rw [hc] at hi
    exact ⟨(hl.ordered.2 _ (List.getElem_mem hi)).2.trans_eq (hp i hi).2.symm,
      (hp i hi).2.trans_le (hl.multiplicity _ (List.getElem_mem hi))⟩

/-- However a command ends, it keeps the factor list in order. -/
theorem Ended.facOk {s t : State} (h : Ended s t) (hfac : FacOk s) : FacOk t := by
  cases h with
  | done hw =>
    cases hw with
    | factors mb mm kind triv l _ _ hl hp hk =>
      have hc := count_fstatWord (b := triv.isSome) (hl.length.trans (by omega : 15 ≤ 16)) (by omega : kind ≤ 2)
      exact facOk_of_holdsPairs hl hp hc
    | _ => exact hfac.congr rfl rfl rfl
  | _ => exact hfac.congr rfl rfl rfl

/-! ## The step -/

theorem step_of_reset {s : State} (h : s.resetLine = true) : step s = .next s.afterReset := if_pos h

theorem step_of_search {s : State} {j : Search} (hr : s.resetLine = false) (hs : s.search = some j) :
    step s = searchStep j s := by
  rw [step, hr, hs]
  rfl

theorem step_of_idle {s : State} (hr : s.resetLine = false) (hs : s.search = none) (hq : s.hostq = []) :
    step s = .next s := by
  rw [step, hr, hs, hq]
  rfl

theorem step_of_hostq {s : State} {op : HostOp} {rest : List HostOp} (hr : s.resetLine = false) (hs : s.search = none)
    (hq : s.hostq = op :: rest) : step s = serve op { s with hostq := rest } := by
  rw [step, hr, hs, hq]
  rfl

/-- One draw of a search ends the search, or leaves it going on (R167). -/
theorem ended_searchDraw {j : Search} (h1 : 1 ≤ j.degree) (h63 : j.degree ≤ 63) (w : Word) (s : State) :
    ∃ t, searchDraw j w s = .next t ∧ Ended s t := by
  unfold searchDraw
  split
  · exact ⟨_, rfl, .fatal _⟩
  · exact ⟨_, rfl, .done (wrote_set _ _ _)⟩
  · exact ⟨_, rfl, .searching j h1 h63⟩

/-- The states a step can end in, from a sound one: reset; the host's own writes; a command, illegal ones included, or
a draw of a search, that ends in one of the ways listed. -/
inductive Stepped (s : State) : State → Prop where
  | reset : Stepped s s.afterReset
  | idle : Stepped s s
  | read (q : List HostOp) (w : Word) : Stepped s { s with hostq := q, reply := w }
  | ignored (q : List HostOp) : Stepped s { s with hostq := q }
  | register (q : List HostOp) (r : Reg) (v : Word) : Stepped s ({ s with hostq := q }.set r v)
  | clear (q : List HostOp) (v : Word) : Stepped s { s with hostq := q, esticky := s.esticky &&& ~~~v }
  | ended (q : List HostOp) (c : Word) (rest : List Word) (n : Nat) {t : State} : s.fatal = false →
      Ended { s with hostq := q, cmd := c, rnd := rest, drawn := n, search := none } t → Stepped s t

theorem stepped_hostWrite {s : State} (hi : Inv s) (hs : s.search = none) (w : WinIndex) (v : Word)
    (q : List HostOp) : ∃ t, hostWrite w v { s with hostq := q } = .next t ∧ Stepped s t := by
  unfold hostWrite
  split
  · exact ⟨_, rfl, .ignored q⟩
  next hf =>
    have hf : s.fatal = false := Bool.not_eq_true _ ▸ hf
    split
    · exact ⟨_, rfl, .register q _ v⟩
    · split
      · have hi' : Inv { s with hostq := q, cmd := v } := { hi with }
        have hend : ∀ rest t, Ended { s with hostq := q, cmd := v, rnd := rest, search := none } t → Stepped s t :=
          fun rest t => .ended q v rest s.drawn hf
        unfold runCmd
        split
        · exact ⟨_, rfl, hend s.rnd _ (by rw [← hs]; exact .raised .illegal)⟩
        next i _ =>
          obtain ⟨rest, t, ht, he⟩ := exec_ended i hi' hs
          exact ⟨t, ht, hend rest t he⟩
      · split
        · exact ⟨_, rfl, .clear q v⟩
        · exact ⟨_, rfl, .ignored q⟩

/-- From a sound state every step has a next state, of one of the kinds listed. -/
theorem step_stepped {s : State} (hi : Inv s) : ∃ t, step s = .next t ∧ Stepped s t := by
  cases hr : s.resetLine with
  | true => exact ⟨_, step_of_reset hr, .reset⟩
  | false =>
    cases hs : s.search with
    | some j =>
      obtain ⟨h1, h63, hf⟩ := hi.search j hs
      obtain ⟨t, ht, he⟩ := ended_searchDraw h1 h63 s.draw.1 { s.draw.2 with search := none }
      refine ⟨t, (step_of_search hr hs).trans ht, .ended s.hostq s.cmd s.draw.2.rnd s.draw.2.drawn hf ?_⟩
      convert he using 1
      unfold State.draw
      split <;> rfl
    | none =>
      cases hq : s.hostq with
      | nil => exact ⟨_, step_of_idle hr hs hq, .idle⟩
      | cons op q =>
        rw [step_of_hostq hr hs hq]
        cases op with
        | read w => exact ⟨_, rfl, .read q _⟩
        | write w v => exact stepped_hostWrite hi hs w v q

theorem inv_reset : Inv State.reset where
  memory := Memory.wf_reset
  statusZero := rfl
  code := .inl (by decide)
  fatalCode := by decide
  esticky := rfl
  pmod h := absurd h (by decide)
  imod h := absurd h (by decide)
  mdim := by decide
  matv h := absurd h (by decide)
  kdim := by decide
  kerv h := absurd h (by decide)
  fstat := by decide
  ftriv := by decide
  search _ h := by cases h

theorem fcount_reset : State.reset.fcount = 0 := by decide

theorem facOk_of_fcount {s : State} (h : s.fcount = 0) : FacOk s :=
  ⟨fun _ _ _ hj => by omega, fun _ hi => by omega, fun _ hi => by omega⟩

/-- Every step of a sound state keeps the invariants. -/
theorem Inv.stepped {s t : State} (hi : Inv s) (h : Stepped s t) : Inv t := by
  cases h with
  | reset => exact { inv_reset with memory := hi.memory }
  | idle => exact hi
  | read | ignored | register => exact { hi with }
  | clear q v =>
    refine { hi with esticky := ?_ }
    change s.esticky &&& ~~~v &&& ~~~stickyBits = 0
    rw [BitVec.and_assoc, BitVec.and_comm (~~~v), ← BitVec.and_assoc, hi.esticky]
    exact BitVec.zero_and
  | ended q c rest n hf he =>
    have hi' : Inv { s with hostq := q, cmd := c, rnd := rest, drawn := n, search := none } :=
      { hi with search := fun _ h => by cases h }
    exact hi'.ended hf rfl he

/-- Every step of a sound state keeps the factor list in order. -/
theorem FacOk.stepped {s t : State} (hfac : FacOk s) (h : Stepped s t) : FacOk t := by
  cases h with
  | reset => exact facOk_of_fcount fcount_reset
  | idle => exact hfac
  | read | ignored | register | clear => exact hfac.congr rfl rfl rfl
  | ended q c rest n hf he => exact he.facOk (hfac.congr rfl rfl rfl)

/-- Settles O15: every step of a sound state ends in one of the ways of `Stepped`. -/
theorem soundStatesStep : Obligations.SoundStatesStep := fun s hi => by
  obtain ⟨t, ht, -⟩ := step_stepped hi
  exact ⟨t, ht⟩

theorem stepped_of_step {s t : State} (hi : Inv s) (h : step s = .next t) : Stepped s t := by
  obtain ⟨t', ht, hs⟩ := step_stepped hi
  rw [ht] at h
  cases h
  exact hs

/-- Settles O13: each way a step ends (`Stepped`) writes only canonical values. -/
theorem stepKeepsSoundness : Obligations.StepKeepsSoundness := fun _ _ hi h => hi.stepped (stepped_of_step hi h)

/-- Settles O14: a list is stored only as the factorisation of a word, which `Storable` describes. -/
theorem stepKeepsFactorList : Obligations.StepKeepsFactorList := fun _ _ hi hfac h =>
  hfac.stepped (stepped_of_step hi h)

/-- Settles O12: every context is cleared, so `Inv` asks nothing of the banks. -/
theorem resetIsSound : Obligations.ResetIsSound := ⟨inv_reset, facOk_of_fcount fcount_reset⟩

end Sys2Proof.Machine
end

section
/-! PROOFS. What every command leaves alone, and what it may not read (10_state.md R23, R25, R29, R31 to R35, R46). -/

namespace Sys2Proof.Machine

/-! ## What a command leaves alone -/

/-- The state an error of a command is taken in, seen from the state `s` before the command: `s` itself, or `s` with the
context invalid whose construction failed. -/
inductive TakenIn (i : Instr) (s : State) : State → Prop where
  | here : TakenIn i s s
  | noMatrix : i.opcode = 0x10 → TakenIn i s (s.setMatv false)
  | noPolyModulus : i.opcode = 0x40 → TakenIn i s (s.setPmodv false)
  | noIntModulus : i.opcode = 0x60 → TakenIn i s (s.setImodv false)

/-- Every command but PRANDIRR is `finish` of a result that keeps what the command does not own. -/
theorem exec_finish_keeps (i : Instr) (s : State) (h35 : i.opcode ≠ 0x35) :
    ∃ s1 r, TakenIn i s s1 ∧ exec i s = finish s1 r ∧ ∀ s', r = .ok s' → Keeps i s s' := by
  by_cases hop : i.opcode ∈ [0x10, 0x40, 0x60, 0x35]
  case neg =>
    obtain ⟨r, hr, hk⟩ := exec_eq_finish i s hop
    exact ⟨s, r, .here, hr, hk⟩
  cases i <;> simp [Instr.opcode] at hop h35 <;> clear hop
  case mnew rs1 rs2 =>
    simp only [exec, execMnew]
    split
    · exact ⟨_, _, .noMatrix rfl, rfl, fun _ h => by cases h⟩
    · refine ⟨_, _, .here, rfl, fun s' h => ?_⟩
      obtain ⟨v, hv, hk⟩ := onCell_eq_ok h
      obtain ⟨m, rfl⟩ := memWriteAll_frame hv
      cases hk
      constructor <;> simp [Instr.opcode, Instr.dests, State.get] <;> simp [State.pmodv, State.imodv, State.kerv]
  case pmsetmod rs1 =>
    simp only [exec, execPmsetmod]
    split
    · exact ⟨_, _, .noPolyModulus rfl, rfl, fun _ h => by cases h⟩
    · refine ⟨_, .ok _, .here, rfl, fun s' h => ?_⟩
      cases h
      constructor <;> simp [Instr.opcode, Instr.dests, State.get] <;> simp [State.imodv, State.matv, State.kerv]
  case imsetmod rs1 =>
    simp only [exec, execImsetmod]
    split
    · exact ⟨_, _, .noIntModulus rfl, rfl, fun _ h => by cases h⟩
    · refine ⟨_, .ok _, .here, rfl, fun s' h => ?_⟩
      cases h
      constructor <;> simp [Instr.opcode, Instr.dests, State.get] <;> simp [State.pmodv, State.matv, State.kerv]

theorem exists_prandirr {i : Instr} (h : i.opcode = 0x35) : ∃ rd rs1, i = .prandirr rd rs1 := by
  cases i <;> simp [Instr.opcode] at h
  exact ⟨_, _, rfl⟩

theorem Keeps.setCode {i : Instr} {s t : State} (h : Keeps i s t) (c : Nat) : Keeps i s (t.setCode c) :=
  ⟨h.regs, h.record, h.inputs, by simpa using h.pmod, by simpa using h.imod, by simpa using h.mat, by simpa using h.ker,
    h.fac⟩

/-- How every command but PRANDIRR ends: with results that keep what it does not own, or in an error. -/
theorem exec_next {i : Instr} {s t : State} (h35 : i.opcode ≠ 0x35) (h : exec i s = .next t) :
    (t.code = 0 ∧ Keeps i s t) ∨ ∃ s1, TakenIn i s s1 ∧ ((∃ e, t = raise e s1) ∨ ∃ f, t = fatal f s1) := by
  obtain ⟨s1, r, h1, hr, hk⟩ := exec_finish_keeps i s h35
  rw [hr] at h
  rcases finish_next h with ⟨s', rfl, rfl⟩ | ⟨e, -, rfl⟩ | ⟨f, -, rfl⟩
  · exact .inl ⟨by simp, (hk s' rfl).setCode 0⟩
  · exact .inr ⟨s1, h1, .inl ⟨e, rfl⟩⟩
  · exact .inr ⟨s1, h1, .inr ⟨f, rfl⟩⟩

theorem TakenIn.x {i : Instr} {s s1 : State} (h : TakenIn i s s1) : s1.x = s.x := by cases h <;> rfl

theorem get_eq_of_x {s t : State} (h : t.x = s.x) (r : Reg) : t.get r = s.get r := by simp only [State.get, h]

theorem ErrCode.num_ne_zero (e : ErrCode) : e.num ≠ 0 := by cases e <;> decide
theorem FatalCode.num_ne_zero (f : FatalCode) : f.num ≠ 0 := by cases f <;> decide

/-- A command that completes with code 0 keeps the record of the errors before it, and what it does not own. -/
theorem keeps_of_code_eq_zero {i : Instr} {s t : State} (h35 : i.opcode ≠ 0x35) (h : exec i s = .next t)
    (hc : t.code = 0) : Keeps i s t := by
  rcases exec_next h35 h with ⟨-, hk⟩ | ⟨s1, -, ⟨e, rfl⟩ | ⟨f, rfl⟩⟩
  · exact hk
  · exact absurd (code_raise e s1 ▸ hc) e.num_ne_zero
  · exact absurd (code_fatal f s1 ▸ hc) f.num_ne_zero

/-- Settles O17: a result keeps the registers that are no destination, and an error keeps them all. -/
theorem onlyDestinationsChange : Obligations.OnlyDestinationsChange := by
  intro i s t h
  have hx (h : t.x = s.x) : (∀ r : Reg, r ∉ i.dests → t.get r = s.get r) ∧ (t.code ≠ 0 → t.x = s.x) :=
    ⟨fun r _ => get_eq_of_x h r, fun _ => h⟩
  by_cases h35 : i.opcode = 0x35
  · obtain ⟨rd, rs1, rfl⟩ := exists_prandirr h35
    rcases execPrandirr_next rd rs1 s t h with rfl | ⟨w, rest, rfl⟩ | ⟨f, rest, rfl⟩ | ⟨d, -, -, -, rfl⟩
    · exact hx rfl
    · refine ⟨fun r hr => ?_, fun hc => absurd (by simp) hc⟩
      exact get_set_of_ne { s with rnd := rest, search := none } w (by simpa [Instr.dests] using hr)
    · exact hx rfl
    · exact hx rfl
  · rcases exec_next h35 h with ⟨hc, hk⟩ | ⟨s1, h1, ⟨e, rfl⟩ | ⟨f, rfl⟩⟩
    · exact ⟨hk.regs, fun h => absurd hc h⟩
    · exact hx h1.x
    · exact hx h1.x

/-- The contexts, banks and inputs that a command does not own, kept (10_state.md R31 to R35, R46). -/
structure KeepsContexts (i : Instr) (s t : State) : Prop where
  pmod : i.opcode ≠ 0x40 → t.pmod = s.pmod ∧ t.pmodv = s.pmodv
  imod : i.opcode ≠ 0x60 → t.imod = s.imod ∧ t.imodv = s.imodv
  mat : i.opcode ∉ [0x10, 0x11, 0x15, 0x16, 0x18, 0x30] → t.mat = s.mat ∧ t.mdim = s.mdim ∧ t.matv = s.matv
  ker : i.opcode ≠ 0x1A → t.ker = s.ker ∧ t.kdim = s.kdim ∧ t.kerv = s.kerv
  fac : i.opcode ∉ [0x31, 0x57] → t.facb = s.facb ∧ t.facm = s.facm ∧ t.fstat = s.fstat ∧ t.ftriv = s.ftriv
  draws : i.opcode ≠ 0x35 → t.rnd = s.rnd ∧ t.search = s.search
  inputs : t.cmd = s.cmd ∧ t.hostq = s.hostq ∧ t.reply = s.reply ∧ t.resetLine = s.resetLine ∧ t.drawn = s.drawn

theorem Keeps.contexts {i : Instr} {s t : State} (h : Keeps i s t) : KeepsContexts i s t := by
  obtain ⟨hcmd, hq, hreply, hreset, hdrawn, hrnd, hsearch⟩ := h.inputs
  exact ⟨h.pmod, h.imod, h.mat, h.ker, h.fac, fun _ => ⟨hrnd, hsearch⟩, hcmd, hq, hreply, hreset, hdrawn⟩

theorem TakenIn.contexts {i : Instr} {s s1 : State} (h : TakenIn i s s1) : KeepsContexts i s s1 := by
  cases h with
  | here => constructor <;> simp
  | noMatrix hop | noPolyModulus hop | noIntModulus hop => constructor <;> simp [hop]

theorem KeepsContexts.set {i : Instr} {s t : State} (h : KeepsContexts i s t) (r : Reg) (v : Word) :
    KeepsContexts i s (t.set r v) :=
  ⟨h.pmod, h.imod, h.mat, h.ker, h.fac, h.draws, h.inputs⟩

theorem KeepsContexts.setCode {i : Instr} {s t : State} (h : KeepsContexts i s t) (c : Nat) :
    KeepsContexts i s (t.setCode c) :=
  ⟨by simpa using h.pmod, by simpa using h.imod, by simpa using h.mat, by simpa using h.ker, h.fac, h.draws, h.inputs⟩

theorem KeepsContexts.raise {i : Instr} {s t : State} (h : KeepsContexts i s t) (e : ErrCode) :
    KeepsContexts i s (raise e t) :=
  ⟨by simpa using h.pmod, by simpa using h.imod, by simpa using h.mat, by simpa using h.ker, h.fac, h.draws, h.inputs⟩

theorem KeepsContexts.fatal {i : Instr} {s t : State} (h : KeepsContexts i s t) (f : FatalCode) :
    KeepsContexts i s (fatal f t) :=
  ⟨by simpa using h.pmod, by simpa using h.imod, by simpa using h.mat, by simpa using h.ker, h.fac, h.draws, h.inputs⟩

theorem keepsContexts_exec {i : Instr} {s t : State} (h : exec i s = .next t) : KeepsContexts i s t := by
  by_cases h35 : i.opcode = 0x35
  · obtain ⟨rd, rs1, rfl⟩ := exists_prandirr h35
    have hdraws : ∀ rest j, KeepsContexts (.prandirr rd rs1) s { s with rnd := rest, search := j } := fun rest j => by
      constructor <;> simp [Instr.opcode] <;> simp [State.pmodv, State.imodv, State.matv, State.kerv]
    rcases execPrandirr_next rd rs1 s t h with rfl | ⟨w, rest, rfl⟩ | ⟨f, rest, rfl⟩ | ⟨d, -, -, -, rfl⟩
    · exact TakenIn.here.contexts.raise _
    · exact ((hdraws rest none).set rd w).setCode 0
    · exact (hdraws rest none).fatal f
    · exact hdraws _ _
  · rcases exec_next h35 h with ⟨-, hk⟩ | ⟨s1, h1, ⟨e, rfl⟩ | ⟨f, rfl⟩⟩
    · exact hk.contexts
    · exact h1.contexts.raise e
    · exact h1.contexts.fatal f

/-- Settles O19: every command writes the fields of its own context only, and an error writes none. -/
theorem contextsHaveOwners : Obligations.ContextsHaveOwners := by
  intro i s t h
  obtain ⟨hpmod, himod, hmat, hker, hfac, hdraws, hinputs⟩ := keepsContexts_exec h
  exact ⟨hpmod, himod, hmat, hker, hfac, hdraws, hinputs⟩

end Sys2Proof.Machine
end

section
/-! PROOFS. Two states that a command cannot tell apart give it the same outcome (10_state.md R23, R25). -/

namespace Sys2Proof.Machine

/-! ## Two states a command cannot tell apart -/

theorem setField_setField {n : Nat} (w : Word) (lo : Nat) (u v : BitVec n) :
    setField (setField w lo u) lo v = setField w lo v := by
  refine BitVec.eq_of_getLsbD_eq fun k hk => ?_
  rw [getLsbD_setField _ _ _ _ hk, getLsbD_setField _ _ _ _ hk, getLsbD_setField _ _ _ _ hk]
  split <;> rfl

theorem setField_comm {n m : Nat} (w : Word) {lo lo' : Nat} (u : BitVec n) (v : BitVec m)
    (h : lo + n ≤ lo' ∨ lo' + m ≤ lo) : setField (setField w lo u) lo' v = setField (setField w lo' v) lo u := by
  refine BitVec.eq_of_getLsbD_eq fun k hk => ?_
  rw [getLsbD_setField _ _ _ _ hk, getLsbD_setField _ _ _ _ hk, getLsbD_setField _ _ _ _ hk,
    getLsbD_setField _ _ _ _ hk]
  grind

/-- What a command can read but for the operand registers: the state with these, and the record of earlier outcomes,
erased. -/
def State.bare (s : State) : State := { s.forget with x := Vector.replicate 16 0 }

/-- Two states that agree on some operand registers, and on all else but the record of earlier outcomes. -/
structure Agree (P : Reg → Prop) (s s' : State) : Prop where
  regs : ∀ r, P r → s'.get r = s.get r
  bare : s'.bare = s.bare

section
variable {P : Reg → Prop} {s s' : State} (h : Agree P s s')
include h

theorem Agree.mono {P' : Reg → Prop} (hP : ∀ r, P' r → P r) : Agree P' s s' := ⟨fun r hr => h.regs r (hP r hr), h.bare⟩

theorem Agree.flags : s'.pmodv = s.pmodv ∧ s'.imodv = s.imodv ∧ s'.matv = s.matv ∧ s'.kerv = s.kerv := by
  refine ⟨?_, ?_, ?_, ?_⟩
  · rw [← pmodv_setCode s' 0, ← pmodv_setCode s 0]; exact (congrArg State.pmodv h.bare :)
  · rw [← imodv_setCode s' 0, ← imodv_setCode s 0]; exact (congrArg State.imodv h.bare :)
  · rw [← matv_setCode s' 0, ← matv_setCode s 0]; exact (congrArg State.matv h.bare :)
  · rw [← kerv_setCode s' 0, ← kerv_setCode s 0]; exact (congrArg State.kerv h.bare :)

theorem Agree.contexts : s'.pm = s.pm ∧ s'.im = s.im ∧ s'.nrows = s.nrows ∧ s'.ncols = s.ncols ∧ s'.krows = s.krows ∧
    s'.kcols = s.kcols ∧ s'.fcount = s.fcount ∧ s'.fkind = s.fkind :=
  ⟨(congrArg State.pm h.bare :), (congrArg State.im h.bare :), (congrArg State.nrows h.bare :),
    (congrArg State.ncols h.bare :), (congrArg State.krows h.bare :), (congrArg State.kcols h.bare :), (congrArg State.fcount h.bare :),
    (congrArg State.fkind h.bare :)⟩

theorem Agree.bank (b : BankName) : s'.bank b = s.bank b := by
  cases b
  exacts [(congrArg State.mat h.bare :), (congrArg State.ker h.bare :), (congrArg State.facb h.bare :),
    (congrArg State.facm h.bare :)]

theorem Agree.memRead (b : BankName) (i n : Nat) : s'.memRead b i n = s.memRead b i n := by
  rw [State.memRead, State.memRead, State.cell, State.cell, h.bank]

theorem Agree.memReadAll (b : BankName) (n k i : Nat) : s'.memReadAll b n k i = s.memReadAll b n k i := by
  induction k generalizing i with
  | zero => rfl
  | succ k ih => rw [State.memReadAll, State.memReadAll, h.memRead, ih]

theorem Agree.matRows : s'.matRows = s.matRows := by
  rw [State.matRows, State.matRows, h.memReadAll, h.contexts.2.2.1, h.contexts.2.2.2.1]

theorem Agree.set (r : Reg) (v : Word) : Agree (fun q => P q ∨ q = r) (s.set r v) (s'.set r v) := by
  refine ⟨fun q hq => ?_, h.bare⟩
  rw [get_set, get_set]
  split
  · rfl
  next hne => exact h.regs q (hq.resolve_right hne)

/-- A command without destinations. -/
theorem Agree.noDest : Agree (fun q => P q ∨ q ∈ ([] : List Reg)) s s' := h.mono fun q hq => by simpa using hq

theorem Agree.oneDest (r : Reg) (v : Word) : Agree (fun q => P q ∨ q ∈ [r]) (s.set r v) (s'.set r v) :=
  (h.set r v).mono fun q hq => by simpa using hq

theorem Agree.twoDests (r r' : Reg) (v v' : Word) :
    Agree (fun q => P q ∨ q ∈ [r, r']) ((s.set r v).set r' v') ((s'.set r v).set r' v') :=
  ((h.set r v).set r' v').mono fun q hq => by simpa [or_assoc] using hq

theorem Agree.threeDests (r r' r'' : Reg) (v v' v'' : Word) :
    Agree (fun q => P q ∨ q ∈ [r, r', r'']) (((s.set r v).set r' v').set r'' v'')
      (((s'.set r v).set r' v').set r'' v'') :=
  (((h.set r v).set r' v').set r'' v'').mono fun q hq => by simpa [or_assoc] using hq

theorem Agree.u64 {r : Reg} (hr : P r) : s'.u64 r = s.u64 r := congrArg BitVec.toNat (h.regs r hr)

theorem Agree.s64 {r : Reg} (hr : P r) : s'.s64 r = s.s64 r := congrArg BitVec.toInt (h.regs r hr)

theorem Agree.presidue {r : Reg} (hr : P r) : s'.presidue r = s.presidue r := by
  rw [State.presidue, State.presidue, h.u64 hr, h.contexts.1]

theorem Agree.iresidue {r : Reg} (hr : P r) : s'.iresidue r = s.iresidue r := by
  rw [State.iresidue, State.iresidue, h.s64 hr, h.contexts.2.1]

theorem Agree.setBank (b : BankName) (m : Bank) : Agree P (s.setBank b m) (s'.setBank b m) := by
  refine ⟨fun q hq => by cases b <;> exact h.regs q hq, ?_⟩
  have hb : ∀ t : State, (t.setBank b m).bare = t.bare.setBank b m := fun t => by cases b <;> rfl
  rw [hb, hb, h.bare]

theorem Agree.setStatus {n : Nat} (lo : Nat) (v : BitVec n) (h8 : 8 ≤ lo) :
    Agree P { s with status := setField s.status lo v } { s' with status := setField s'.status lo v } := by
  refine ⟨h.regs, ?_⟩
  have hb : ∀ t : State, { t with status := setField t.status lo v }.bare =
      { t.bare with status := setField t.bare.status lo v } := fun t => by
    change { t.bare with status := setField (setField t.status lo v) 0 (BitVec.ofNat 8 0) } = _
    rw [setField_comm _ _ _ (.inr (by omega))]
    rfl
  rw [hb, hb, h.bare]

theorem Agree.setMdim (v : Word) : Agree P { s with mdim := v } { s' with mdim := v } :=
  ⟨h.regs, (congrArg (fun t : State => { t with mdim := v }) h.bare :)⟩

theorem Agree.setKdim (v : Word) : Agree P { s with kdim := v } { s' with kdim := v } :=
  ⟨h.regs, (congrArg (fun t : State => { t with kdim := v }) h.bare :)⟩

theorem Agree.setFactors (v w : Word) : Agree P { s with fstat := v, ftriv := w } { s' with fstat := v, ftriv := w } :=
  ⟨h.regs, (congrArg (fun t : State => { t with fstat := v, ftriv := w }) h.bare :)⟩

theorem Agree.setPmod (v : Word) : Agree P { s with pmod := v } { s' with pmod := v } :=
  ⟨h.regs, (congrArg (fun t : State => { t with pmod := v }) h.bare :)⟩

theorem Agree.setImod (v : Word) : Agree P { s with imod := v } { s' with imod := v } :=
  ⟨h.regs, (congrArg (fun t : State => { t with imod := v }) h.bare :)⟩

end

/-! ## Two results alike -/

/-- Two results that are related states, or end for the same reason. -/
def Alike (Q : State → State → Prop) : Result → Result → Prop
  | .ok t, .ok t' => Q t t'
  | .error e, .error e' => e = e'
  | _, _ => False

section
variable {Q : State → State → Prop}

@[simp] theorem alike_fails (e : ErrCode) : Alike Q (fails e) (fails e) := rfl

theorem Alike.cases {q q' : Result} (h : Alike Q q q') :
    (∃ t t', q = .ok t ∧ q' = .ok t' ∧ Q t t') ∨ ∃ e, q = .error e ∧ q' = .error e := by
  cases q <;> cases q'
  case ok.ok t t' => exact .inl ⟨t, t', rfl, rfl, h⟩
  case error.error e e' => exact .inr ⟨e, rfl, congrArg Except.error (Eq.symm h)⟩
  all_goals exact absurd h id

theorem alike_needCtx {v : Bool} {k k' : Result} (h : Alike Q k k') : Alike Q (needCtx v k) (needCtx v k') := by
  cases v
  · exact alike_fails _
  · exact h

theorem alike_needIndex {i : Int} {n : Nat} {k k' : Nat → Result} (h : ∀ j, Alike Q (k j) (k' j)) :
    Alike Q (needIndex i n k) (needIndex i n k') := by
  unfold needIndex
  split
  · exact alike_fails _
  · exact h _

theorem alike_needInt63 {n : Nat} {k k' : Result} (h : Alike Q k k') : Alike Q (needInt63 n k) (needInt63 n k') := by
  unfold needInt63
  split
  · exact alike_fails _
  · exact h

theorem alike_ite {c : Prop} [Decidable c] {a b a' b' : Result} (h : Alike Q a a') (h' : Alike Q b b') :
    Alike Q (if c then a else b) (if c then a' else b') := by
  split
  · exact h
  · exact h'

theorem alike_onCell {α : Type} {a : Except Fault α} {k k' : α → Result} (h : ∀ v, Alike Q (k v) (k' v)) :
    Alike Q (onCell a k) (onCell a k') := by
  cases a with
  | ok v => exact h v
  | error f => exact rfl

theorem alike_onFatal {α : Type} {a : Except FatalCode α} {k k' : α → Result} (h : ∀ v, Alike Q (k v) (k' v)) :
    Alike Q (onFatal a k) (onFatal a k') := by
  cases a with
  | ok v => exact h v
  | error f => exact rfl

theorem alike_needInverse {o : Option Nat} {a : Nat} {k k' : Nat → Result} (h : ∀ r, Alike Q (k r) (k' r)) :
    Alike Q (needInverse o a k) (needInverse o a k') := by
  cases o with
  | none => exact alike_ite rfl rfl
  | some r => exact h r

theorem alike_orderResult {rd : Reg} {s s' : State} {o : Option Nat} (h : ∀ v, Q (s.set rd v) (s'.set rd v)) :
    Alike Q (orderResult rd s o) (orderResult rd s' o) := by
  cases o with
  | none => exact rfl
  | some d => exact h _

theorem alike_memWrite {s s' : State} {b : BankName} {i n v : Nat} {k k' : State → Result}
    (hb : s'.bank b = s.bank b) (h : ∀ m, Alike Q (k (s.setBank b m)) (k' (s'.setBank b m))) :
    Alike Q (onCell (s.memWrite b i n v) k) (onCell (s'.memWrite b i n v) k') := by
  rw [State.memWrite, State.memWrite, hb]
  split
  · exact h _
  · exact rfl

theorem alike_memWriteAll {b : BankName} {n : Nat} {vs : List Nat} {i : Nat} {s s' : State} {k k' : State → Result}
    (hb : s'.bank b = s.bank b) (h : ∀ m, Alike Q (k (s.setBank b m)) (k' (s'.setBank b m))) :
    Alike Q (onCell (State.memWriteAll b n vs i s) k) (onCell (State.memWriteAll b n vs i s') k') := by
  induction vs generalizing i s s' with
  | nil =>
    have h0 := h (s.bank b)
    rwa [setBank_bank, ← hb, setBank_bank] at h0
  | cons v vs ih =>
    rw [State.memWriteAll, State.memWriteAll, State.memWrite, State.memWrite, hb]
    by_cases hi : i < b.cap
    · simp only [if_pos hi]
      exact ih (by simp) fun m => by simpa using h m
    · simp only [if_neg hi]
      exact rfl

end

/-! ## Every command, from two states it cannot tell apart -/

/-- The states the errors of a command are taken in, from two states before it. -/
inductive TakenAlike (s s' : State) : State → State → Prop where
  | here : TakenAlike s s' s s'
  | noMatrix : TakenAlike s s' (s.setMatv false) (s'.setMatv false)
  | noPolyModulus : TakenAlike s s' (s.setPmodv false) (s'.setPmodv false)
  | noIntModulus : TakenAlike s s' (s.setImodv false) (s'.setImodv false)

theorem Agree.taken {P : Reg → Prop} {s s' s1 s1' : State} (h : Agree P s s') (ht : TakenAlike s s' s1 s1') :
    Agree P s1 s1' := by
  cases ht
  exacts [h, h.setStatus 11 _ (by omega), h.setStatus 9 _ (by omega), h.setStatus 10 _ (by omega)]

/-- The registers known to be equal in the two states after a command. -/
def Known (P : Reg → Prop) (i : Instr) (q : Reg) : Prop := P q ∨ q ∈ i.dests

/-- A command ends alike from two states: it is `finish` of results that agree on the destinations too. -/
def EndsAlike (P : Reg → Prop) (i : Instr) (s s' : State) : Prop :=
  ∃ s1 s1' q q', TakenAlike s s' s1 s1' ∧ exec i s = finish s1 q ∧ exec i s' = finish s1' q' ∧
    Alike (Agree (Known P i)) q q'

section
variable {P : Reg → Prop} {s s' : State} (h : Agree P s s')
include h

/-- Storing a factor list in two states that agree. -/
theorem alike_storeFactors (kind : Nat) (triv : Option Word) (l : FacList) :
    Alike (Agree fun q => P q ∨ q ∈ ([] : List Reg)) (s.storeFactors kind triv l) (s'.storeFactors kind triv l) := by
  refine alike_memWriteAll (h.bank _) fun mb => ?_
  refine alike_memWriteAll ((h.setBank _ mb).bank _) fun mm => ?_
  exact (((h.setBank _ mb).setBank _ mm).setFactors _ _).noDest

theorem endsAlike_mnew {rs1 rs2 : Reg} (hsrc : ∀ r ∈ (Instr.mnew rs1 rs2).srcs, P r) :
    EndsAlike P (.mnew rs1 rs2) s s' := by
  simp only [Instr.srcs, List.forall_mem_cons] at hsrc
  simp only [EndsAlike, exec, execMnew, h.s64, hsrc]
  split
  · exact ⟨_, _, _, _, .noMatrix, rfl, rfl, rfl⟩
  · refine ⟨_, _, _, _, .here, rfl, rfl, ?_⟩
    exact alike_memWriteAll ((h.setMdim _).bank _) fun m => (((h.setMdim _).setBank .mat m).setStatus 11 _ (by omega)).noDest

theorem endsAlike_pmsetmod {rs1 : Reg} (hsrc : ∀ r ∈ (Instr.pmsetmod rs1).srcs, P r) :
    EndsAlike P (.pmsetmod rs1) s s' := by
  simp only [Instr.srcs, List.forall_mem_cons] at hsrc
  simp only [EndsAlike, exec, execPmsetmod, h.u64, h.regs, hsrc]
  split
  · exact ⟨_, _, _, _, .noPolyModulus, rfl, rfl, rfl⟩
  · exact ⟨_, _, .ok _, .ok _, .here, rfl, rfl, ((h.setPmod _).setStatus 9 _ (by omega)).noDest⟩

theorem endsAlike_imsetmod {rs1 : Reg} (hsrc : ∀ r ∈ (Instr.imsetmod rs1).srcs, P r) :
    EndsAlike P (.imsetmod rs1) s s' := by
  simp only [Instr.srcs, List.forall_mem_cons] at hsrc
  simp only [EndsAlike, exec, execImsetmod, h.s64, h.regs, hsrc]
  split
  · exact ⟨_, _, _, _, .noIntModulus, rfl, rfl, rfl⟩
  · exact ⟨_, _, .ok _, .ok _, .here, rfl, rfl, ((h.setImod _).setStatus 10 _ (by omega)).noDest⟩

/-- Every command but PRANDIRR ends alike from two states that agree on its sources. -/
theorem exec_endsAlike (i : Instr) (h35 : i.opcode ≠ 0x35) (hsrc : ∀ r ∈ i.srcs, P r) : EndsAlike P i s s' := by
  cases i
  case prandirr => exact absurd rfl h35
  case mnew => exact endsAlike_mnew h hsrc
  case pmsetmod => exact endsAlike_pmsetmod h hsrc
  case imsetmod => exact endsAlike_imsetmod h hsrc
  case pdeg | padd | psub | pgcd | pderiv =>
    refine ⟨_, _, .ok _, .ok _, .here, rfl, rfl, ?_⟩
    simp only [Instr.srcs, List.forall_mem_cons] at hsrc
    simp only [h.u64, h.regs, hsrc]
    exact h.oneDest _ _
  case pxgcd =>
    refine ⟨_, _, .ok _, .ok _, .here, rfl, rfl, ?_⟩
    simp only [Instr.srcs, List.forall_mem_cons] at hsrc
    simp only [h.u64, hsrc]
    exact h.threeDests _ _ _ _ _ _
  all_goals
    refine ⟨_, _, _, _, .here, rfl, rfl, ?_⟩
    simp only [Instr.srcs, List.forall_mem_cons] at hsrc
    simp only [h.u64, h.s64, h.presidue, h.iresidue, h.flags, h.contexts, h.memRead, h.matRows, hsrc]
  case msetrow =>
    exact alike_needCtx (alike_needIndex fun _ => alike_memWrite (h.bank _) fun m => (h.setBank _ m).noDest)
  case mgetrow | kgetrow | bvlead =>
    exact alike_needCtx (alike_needIndex fun _ => alike_onCell fun _ => h.oneDest _ _)
  case bvget => exact alike_needCtx (alike_needIndex fun _ => alike_needIndex fun _ => alike_onCell fun _ => h.oneDest _ _)
  case bvset | bvtgl =>
    exact alike_needCtx (alike_needIndex fun _ => alike_needIndex fun _ => alike_onCell fun _ =>
      alike_memWrite (h.bank _) fun m => (h.setBank _ m).noDest)
  case mref =>
    exact alike_needCtx (alike_onCell fun _ => alike_memWriteAll (h.bank _) fun m => (h.setBank _ m).noDest)
  case mrank => exact alike_needCtx (alike_onCell fun _ => h.oneDest _ _)
  case mker =>
    exact alike_needCtx (alike_onCell fun _ => alike_onFatal fun _ => alike_memWriteAll ((h.setKdim _).bank _) fun m =>
      (((h.setKdim _).setBank .ker m).setStatus 12 _ (by omega)).noDest)
  case bkmat =>
    exact alike_ite rfl (alike_memWriteAll ((h.setMdim _).bank _) fun m =>
      (((h.setMdim _).setBank .mat m).setStatus 11 _ (by omega)).noDest)
  case pfactor => exact alike_onFatal fun _ => alike_storeFactors h _ _ _
  case ifactor => exact alike_ite rfl (alike_storeFactors h _ _ _)
  case fget =>
    exact alike_needCtx (alike_needIndex fun _ => alike_onCell fun _ => alike_onCell fun _ => h.twoDests _ _ _ _)
  case pmul | iphi | itotient => exact alike_ite rfl (h.oneDest _ _)
  case pquorem => exact alike_ite rfl (h.twoDests _ _ _ _)
  case ppow | imodexp => exact alike_ite rfl (alike_ite rfl (alike_ite rfl (h.oneDest _ _)))
  case ifact => exact alike_ite rfl (alike_ite rfl (h.oneDest _ _))
  case psqrt rd rd2 rs1 =>
    cases psqrt (s.u64 rs1)
    all_goals exact h.twoDests _ _ _ _
  case pirr => exact alike_onFatal fun _ => h.oneDest _ _
  case plowirr =>
    refine alike_ite rfl (alike_onFatal fun c => ?_)
    cases c
    exacts [rfl, h.oneDest _ _]
  case ptotient | pprim => exact alike_ite rfl (alike_onFatal fun _ => h.oneDest _ _)
  case igcd | ilcm => exact alike_needInt63 (h.oneDest _ _)
  case ixgcd => exact alike_needInt63 (h.threeDests _ _ _ _ _ _)
  case imodrecip rd rs1 rs2 =>
    refine alike_ite rfl (alike_ite rfl ?_)
    cases imodrecip (s.s64 rs2).toNat (s.s64 rs1)
    exacts [rfl, h.oneDest _ _]
  case idivnext rd rs1 rs2 =>
    refine alike_ite rfl ?_
    cases nextdiv (s.s64 rs1) (s.s64 rs2)
    exacts [h.oneDest _ _, alike_needInt63 (h.oneDest _ _)]
  case pmdiv | pmrecip | imdiv | imrecip => exact alike_needCtx (alike_needInverse fun _ => h.oneDest _ _)
  case pmpow | impow =>
    exact alike_needCtx (alike_ite rfl (alike_ite (alike_needInverse fun _ => h.oneDest _ _) (h.oneDest _ _)))
  case imorder => exact alike_needCtx (alike_ite (alike_orderResult fun _ => h.oneDest _ _) rfl)
  case pmorder =>
    exact alike_needCtx (alike_ite (alike_onFatal fun _ => alike_orderResult fun _ => h.oneDest _ _) rfl)
  case immaxord => exact alike_needCtx (alike_ite rfl (h.oneDest _ _))
  case pmmaxord => exact alike_needCtx (alike_ite rfl (alike_onFatal fun _ => h.oneDest _ _))
  case imgen => exact alike_needCtx (alike_orderResult fun _ => h.oneDest _ _)
  case pmgen => exact alike_needCtx (alike_onFatal fun _ => alike_orderResult fun _ => h.oneDest _ _)
  all_goals exact alike_needCtx (h.oneDest _ _)

end
end Sys2Proof.Machine
end

section
/-! PROOFS. No command reads the outcome of an earlier one (R25, R29), or a register that is no source of it (R23, R326). -/

namespace Sys2Proof.Machine

/-! ## Earlier outcomes -/

theorem setCode_setCode (s : State) (c d : Nat) : (s.setCode c).setCode d = s.setCode d := by
  change { s with status := setField (setField s.status 0 (BitVec.ofNat 8 c)) 0 (BitVec.ofNat 8 d) } = _
  rw [setField_setField]
  rfl

theorem forget_setCode (s : State) (c : Nat) : (s.setCode c).forget = s.forget :=
  setCode_setCode { s with esticky := 0, ecmd := 0 } c 0

theorem forget_raise (e : ErrCode) (s : State) : (raise e s).forget = s.forget := forget_setCode s e.num

/-- A fatal condition leaves nothing behind but its record and STATUS.fatal. -/
theorem forget_fatal (f : FatalCode) (s : State) : (fatal f s).forget = s.forget.setFatal true := by
  have h : ∀ t : State, (t.setFatal true).setCode 0 = (t.setCode 0).setFatal true := fun t => by
    change { t with status := setField (setField t.status 8 (BitVec.ofBool true)) 0 (BitVec.ofNat 8 0) } = _
    rw [setField_comm _ _ _ (.inr (by omega))]
    rfl
  exact (h _).trans (congrArg (State.setFatal · true) (forget_setCode s f.num))

theorem forget_forget (s : State) : s.forget.forget = s.forget :=
  setCode_setCode { s with esticky := 0, ecmd := 0 } 0 0

/-- States that agree on every register differ in the record of earlier outcomes at most. -/
theorem Agree.forget {P : Reg → Prop} {s s' : State} (h : Agree P s s') (hP : ∀ r, P r) : s'.forget = s.forget := by
  have hx : s'.x = s.x := x_eq_of_get fun r => h.regs r (hP r)
  have hs : ∀ t : State, t.forget = { t.bare with x := t.x } := fun _ => rfl
  rw [hs s', hs s, hx, h.bare]

theorem agree_forget (s : State) : Agree (fun _ => True) s.forget s :=
  ⟨fun _ _ => rfl, congrArg (fun t : State => { t with x := Vector.replicate 16 0 }) (forget_forget s).symm⟩

/-- Results that agree on every register end in outcomes that differ in the record of earlier outcomes at most. -/
theorem mapNext_forget_finish {P : Reg → Prop} (hP : ∀ r, P r) {s s' : State} {q q' : Result} (hs : Agree P s s')
    (h : Alike (Agree P) q q') : mapNext State.forget (finish s' q') = mapNext State.forget (finish s q) := by
  obtain ⟨t, t', rfl, rfl, ht⟩ | ⟨e, rfl, rfl⟩ := h.cases
  · refine congrArg Host.Outcome.next ?_
    rw [forget_setCode, forget_setCode, ht.forget hP]
  · cases e with
    | err e => exact congrArg Host.Outcome.next (by rw [forget_raise, forget_raise, hs.forget hP])
    | fatal f => exact congrArg Host.Outcome.next (by rw [forget_fatal, forget_fatal, hs.forget hP])
    | fault f => rfl

/-- The search over the supplied draws reads no earlier outcome. -/
theorem searchSupplied_forget (j : Search) (ws : List Word) (s : State) :
    mapNext State.forget (searchSupplied j ws s.forget) = mapNext State.forget (searchSupplied j ws s) := by
  induction ws with
  | nil => exact congrArg Host.Outcome.next (forget_forget { s with rnd := [], search := some j })
  | cons w ws ih =>
    unfold searchSupplied
    split
    · exact ih
    next hne =>
      have hs := agree_forget { s with rnd := ws, search := none }
      unfold searchDraw
      split
      · exact (mapNext_forget_finish (fun _ => trivial) hs (q := .error _) (q' := .error _) rfl).symm
      · exact (mapNext_forget_finish (fun _ => trivial) hs (q := .ok _) (q' := .ok _)
          ((hs.set _ _).mono fun _ _ => .inl trivial)).symm
      next h => exact absurd h hne

/-- Settles O22: the erased state agrees with the given one on all a command reads. -/
theorem earlierOutcomesAreNotRead : Obligations.EarlierOutcomesAreNotRead := by
  intro i s
  by_cases h35 : i.opcode = 0x35
  · obtain ⟨rd, rs1, rfl⟩ := exists_prandirr h35
    simp only [exec, execPrandirr, (agree_forget s).s64 (r := rs1) trivial]
    split
    · exact mapNext_forget_finish (fun _ => trivial) (agree_forget s) (alike_fails _)
    · exact (searchSupplied_forget _ _ s).symm
  · obtain ⟨s1, s1', q, q', ht, hq, hq', halike⟩ :=
      exec_endsAlike (agree_forget s) i h35 (fun _ _ => trivial)
    rw [hq, hq']
    exact mapNext_forget_finish (P := Known (fun _ => True) i) (fun _ => .inl trivial)
      (((agree_forget s).taken ht).mono fun _ _ => trivial) halike

/-! ## Registers that are no source -/

theorem agree_set (s : State) (r : Reg) (v : Word) : Agree (· ≠ r) s (s.set r v) :=
  ⟨fun _ hq => get_set_of_ne s v hq, rfl⟩

theorem TakenAlike.set_eq {s s1 s1' : State} {r : Reg} {v : Word} (h : TakenAlike s (s.set r v) s1 s1') :
    s1' = s1.set r v := by cases h <;> rfl

/-- A state with code 0 is fixed by its registers, the record of errors, and the rest. -/
theorem eq_of_agree {s t : State} (h : Agree (fun _ => True) s t) (he : t.esticky = s.esticky) (hc : t.ecmd = s.ecmd)
    (hs : s.setCode 0 = s) (ht : t.setCode 0 = t) : t = s := by
  have hfix : ∀ u : State, u.setCode 0 = u → u = { u.forget with esticky := u.esticky, ecmd := u.ecmd } := fun u hu =>
    hu.symm.trans rfl
  rw [hfix t ht, hfix s hs, h.forget fun _ => trivial, he, hc]

/-- The next state after another word in a register that is no source: the word is gone where the register is a
destination and the command completes with code 0, and there still elsewhere. -/
def withWord (i : Instr) (r : Reg) (v : Word) (t : State) : State :=
  if r ∈ i.dests ∧ t.code = 0 ∧ (i.opcode = 0x35 → t.search = none) then t else t.set r v

theorem withWord_of_code {i : Instr} {r : Reg} {v : Word} {t : State} (h : t.code ≠ 0) :
    withWord i r v t = t.set r v := if_neg fun hc => h hc.2.1

theorem raise_set_eq (i : Instr) (r : Reg) (v : Word) (e : ErrCode) (s : State) :
    raise e (s.set r v) = withWord i r v (raise e s) :=
  (withWord_of_code (t := raise e s) (by rw [code_raise]; exact e.num_ne_zero)).symm

theorem fatal_set_eq (i : Instr) (r : Reg) (v : Word) (f : FatalCode) (s : State) :
    fatal f (s.set r v) = withWord i r v (fatal f s) :=
  (withWord_of_code (t := fatal f s) (by rw [code_fatal]; exact f.num_ne_zero)).symm

/-- A command but PRANDIRR that completes with code 0, with and without another word in a register that is no source. -/
theorem next_eq_withWord {i : Instr} (h35 : i.opcode ≠ 0x35) {s t t' : State} {r : Reg} {v : Word}
    (h : Agree (Known (· ≠ r) i) t t') (ht : exec i s = .next (t.setCode 0))
    (ht' : exec i (s.set r v) = .next (t'.setCode 0)) : t'.setCode 0 = withWord i r v (t.setCode 0) := by
  have hk := keeps_of_code_eq_zero h35 ht (by simp)
  have hk' := keeps_of_code_eq_zero h35 ht' (by simp)
  obtain ⟨he, hc⟩ := hk.record
  obtain ⟨he', hc'⟩ := hk'.record
  have hbare : (t'.setCode 0).bare = (t.setCode 0).bare := by
    have hb : ∀ u : State, (u.setCode 0).bare = u.bare := fun u =>
      congrArg (fun t : State => { t with x := Vector.replicate 16 0 }) (forget_setCode u 0)
    rw [hb, hb, h.bare]
  by_cases hr : r ∈ i.dests
  · rw [withWord, if_pos ⟨hr, by simp, fun h => absurd h h35⟩]
    refine eq_of_agree ⟨fun q _ => h.regs q ?_, hbare⟩ (he'.trans he.symm) (hc'.trans hc.symm) (setCode_setCode _ _ _)
      (setCode_setCode _ _ _)
    by_cases hq : q = r
    exacts [.inr (hq ▸ hr), .inl hq]
  · rw [withWord, if_neg fun h => hr h.1]
    refine eq_of_agree ⟨fun q _ => ?_, hbare⟩ (he'.trans he.symm) (hc'.trans hc.symm)
      (congrArg (State.set · r v) (setCode_setCode t 0 0)) (setCode_setCode _ _ _)
    by_cases hq : q = r
    · rw [hq, get_set_same, hk'.regs r hr, get_set_same]
    · rw [get_set_of_ne _ _ hq]
      exact h.regs q (.inl hq)

/-- The search over the supplied draws reads no operand register. -/
theorem searchSupplied_set (rd rs1 r : Reg) (v : Word) (d : Nat) (ws : List Word) (s : State) :
    searchSupplied ⟨rd, d⟩ ws (s.set r v) =
      mapNext (withWord (.prandirr rd rs1) r v) (searchSupplied ⟨rd, d⟩ ws s) := by
  induction ws with
  | nil => exact congrArg Host.Outcome.next (if_neg fun h => by simp [Instr.opcode] at h).symm
  | cons w ws ih =>
    unfold searchSupplied
    split
    · exact ih
    next hne =>
      unfold searchDraw
      split
      next f _ => exact congrArg Host.Outcome.next (fatal_set_eq _ r v f { s with rnd := ws, search := none })
      · refine congrArg Host.Outcome.next ?_
        by_cases hr : r = rd
        · subst hr
          rw [withWord, if_pos ⟨by simp [Instr.dests], by simp, fun _ => rfl⟩]
          simp [State.set]
        · rw [withWord, if_neg fun h => hr (by simpa [Instr.dests] using h.1)]
          exact congrArg (State.setCode · 0) (set_comm { s with rnd := ws, search := none } _ _ hr)
      next h => exact absurd h hne

/-- Settles O23: a state with another word there agrees on all sources, so the outcomes are alike. -/
theorem onlySourcesAreRead : Obligations.OnlySourcesAreRead := by
  intro i s r v hr
  change exec i (s.set r v) = mapNext (withWord i r v) (exec i s)
  have hsrc : ∀ q ∈ i.srcs, q ≠ r := fun q hq e => hr (e ▸ hq)
  by_cases h35 : i.opcode = 0x35
  · obtain ⟨rd, rs1, rfl⟩ := exists_prandirr h35
    simp only [exec, execPrandirr, (agree_set s r v).s64 (hsrc rs1 (by simp [Instr.srcs]))]
    split
    · exact congrArg Host.Outcome.next (raise_set_eq _ r v _ s)
    · exact searchSupplied_set rd rs1 r v _ _ s
  · obtain ⟨s1, s1', q, q', ht, hq, hq', halike⟩ := exec_endsAlike (agree_set s r v) i h35 hsrc
    rw [ht.set_eq] at hq'
    obtain ⟨t, t', rfl, rfl, hagree⟩ | ⟨e, rfl, rfl⟩ := halike.cases
    · rw [hq', hq]
      exact congrArg Host.Outcome.next (next_eq_withWord h35 hagree hq hq')
    · rw [hq', hq]
      cases e with
      | err e => exact congrArg Host.Outcome.next (raise_set_eq i r v e s1)
      | fatal f => exact congrArg Host.Outcome.next (fatal_set_eq i r v f s1)
      | fault f => rfl

end Sys2Proof.Machine
end

section
/-! PROOFS. The search of PRANDIRR (42_f2polyfactor.md R167, R177) and the two residue rings
(43_f2polymod.md, 45_intmod.md). -/

namespace Sys2Proof.Machine

/-! ## The search of PRANDIRR -/

theorem searchDraw_of_irr {j : Search} {w : Word} (h : irr (candidate j.degree w) = .ok true) (s : State) :
    searchDraw j w s = .next ((s.setNat j.rd (candidate j.degree w)).setCode 0) := by
  rw [searchDraw, h]
  rfl

theorem searchDraw_of_not_irr {j : Search} {w : Word} (h : irr (candidate j.degree w) = .ok false) (s : State) :
    searchDraw j w s = .next { s with search := some j } := by
  rw [searchDraw, h]

/-- Draws whose candidates are not irreducible are passed over (R167). -/
theorem searchSupplied_append {j : Search} {ws : List Word} (h : ∀ v ∈ ws, irr (candidate j.degree v) = .ok false)
    (rest : List Word) (s : State) : searchSupplied j (ws ++ rest) s = searchSupplied j rest s := by
  induction ws with
  | nil => rfl
  | cons w ws ih =>
    rw [List.forall_mem_cons] at h
    rw [List.cons_append, searchSupplied, h.1]
    exact ih h.2

theorem searchSupplied_of_irr {j : Search} {w : Word} (h : irr (candidate j.degree w) = .ok true) (rest : List Word)
    (s : State) : searchSupplied j (w :: rest) s =
      .next (({ s with rnd := rest, search := none }.setNat j.rd (candidate j.degree w)).setCode 0) := by
  rw [searchSupplied, h]
  exact searchDraw_of_irr h _

theorem execPrandirr_of_out {rd rs1 : Reg} {s : State} (h : s.s64 rs1 < 1 ∨ 63 < s.s64 rs1) :
    exec (.prandirr rd rs1) s = .next (raise .undef s) := if_pos h

theorem execPrandirr_of_degree {rd rs1 : Reg} {s : State} (h1 : 1 ≤ s.s64 rs1) (h63 : s.s64 rs1 ≤ 63) :
    exec (.prandirr rd rs1) s = searchSupplied ⟨rd, (s.s64 rs1).toNat⟩ s.rnd s := if_neg (by omega)

theorem draw_search (s : State) : s.draw.2.search = s.search := by
  unfold State.draw
  split <;> rfl

/-- Settles O40: the supplied draws are searched in order, then a step takes one draw. -/
theorem randomIrreducible : Obligations.RandomIrreducible := by
  constructor
  · intro s rd rs1
    refine ⟨execPrandirr_of_out, fun h1 h63 => ⟨?_, ?_⟩⟩
    · intro ws w rest hrnd hws hw
      rw [execPrandirr_of_degree h1 h63, hrnd, searchSupplied_append (j := ⟨rd, (s.s64 rs1).toNat⟩) hws]
      exact searchSupplied_of_irr (j := ⟨rd, (s.s64 rs1).toNat⟩) hw rest s
    · intro hws
      rw [execPrandirr_of_degree h1 h63, ← List.append_nil s.rnd, searchSupplied_append (j := ⟨rd, (s.s64 rs1).toNat⟩) hws]
      rfl
  · intro s j hr hs
    rw [step_of_search hr hs, searchStep]
    refine ⟨?_, ?_⟩
    · intro h
      exact searchDraw_of_irr h _
    · intro h
      rw [searchDraw_of_not_irr h, ← hs, ← draw_search s]

/-! ## The ring F2[x]/(m) -/

theorem pmodp_lt (a : Nat) {m : Nat} (hm : m ≠ 0) : pmodp a m < 2 ^ deg m := (pquorem_spec a hm).2

theorem reduced_of_lt {m r : Nat} (h : r < 2 ^ deg m) : Reduced m r := by
  rcases Nat.eq_zero_or_pos (deg m) with h0 | h0
  · rw [h0] at h
    exact .inl (by omega)
  · right
    rw [natDegree_polyOf, natDegree_polyOf]
    exact deg_lt_of_lt_two_pow h0 h

theorem polyCongr_pmodp (a : Nat) {m : Nat} (hm : m ≠ 0) : PolyCongr m (polyOf (pmodp a m)) (polyOf a) := by
  rw [PolyCongr, polyOf_pmodp a hm]
  exact dvd_mod_sub _ _

section
variable {m : Nat} {p q p' q' : Polynomial (ZMod 2)} (h : PolyCongr m p q) (h' : PolyCongr m p' q')
include h h'

theorem PolyCongr.add : PolyCongr m (p + p') (q + q') := by
  rw [PolyCongr, add_sub_add_comm]
  exact dvd_add h h'

theorem PolyCongr.mul : PolyCongr m (p * p') (q * q') := by
  obtain ⟨u, hu⟩ := h
  obtain ⟨u', hu'⟩ := h'
  exact ⟨u * p' + q * u', by linear_combination p' * hu + q * hu'⟩

end

theorem PolyCongr.trans {m : Nat} {p q r : Polynomial (ZMod 2)} (h : PolyCongr m p q) (h' : PolyCongr m q r) :
    PolyCongr m p r := by
  rw [PolyCongr, ← sub_add_sub_cancel p q r]
  exact dvd_add h h'

theorem sub_eq_add_mod_two (p q : Polynomial (ZMod 2)) : p - q = p + q := by
  linear_combination -q * two_eq_zero

/-- A residue is a result: it is a reduced word. -/
theorem reduced_result {m r : Nat} (hm : m < 2 ^ 64) (h : r < 2 ^ deg m) : r < 2 ^ 64 ∧ Reduced m r := by
  have hd : deg m < 64 := deg_lt_of_lt_two_pow (by omega) hm
  exact ⟨h.trans (Nat.pow_lt_pow_right (by omega) hd), reduced_of_lt h⟩

section
variable {s : State} (hv : s.pmodv = true) (rd rs1 rs2 : Reg)
include hv

theorem execPmred_of_valid : exec (.pmred rd rs1) s = .next ((s.setNat rd (s.presidue rs1)).setCode 0) := by
  rw [exec, execPmred, hv]
  rfl

theorem execPmadd_of_valid :
    exec (.pmadd rd rs1 rs2) s = .next ((s.setNat rd (s.presidue rs1 ^^^ s.presidue rs2)).setCode 0) := by
  rw [exec, execPmadd, hv]
  rfl

theorem execPmsub_of_valid :
    exec (.pmsub rd rs1 rs2) s = .next ((s.setNat rd (s.presidue rs1 ^^^ s.presidue rs2)).setCode 0) := by
  rw [exec, execPmsub, hv]
  rfl

theorem execPmmul_of_valid : exec (.pmmul rd rs1 rs2) s =
    .next ((s.setNat rd (pmulmod s.pm (s.presidue rs1) (s.presidue rs2))).setCode 0) := by
  rw [exec, execPmmul, hv]
  rfl

end

/-- Settles O43: reduction keeps the class of the operand words, and the class is a ring homomorphism. -/
theorem polyRing : Obligations.PolyRing := by
  intro s rd rs1 rs2 hv hm0
  have hm : s.pm ≠ 0 := fun h => hm0 (BitVec.eq_of_toNat_eq h)
  have hres : ∀ r < 2 ^ deg s.pm, r < 2 ^ 64 ∧ Reduced s.pm r := fun r => reduced_result s.pmod.isLt
  have hlt : ∀ r, s.presidue r < 2 ^ deg s.pm := fun r => pmodp_lt _ hm
  have hcongr : ∀ r, PolyCongr s.pm (polyOf (s.presidue r)) (polyOf (s.u64 r)) := fun r => polyCongr_pmodp _ hm
  have hsum := hres _ (Nat.xor_lt_two_pow (hlt rs1) (hlt rs2))
  have hadd := polyOf_xor (s.presidue rs1) (s.presidue rs2) ▸ (hcongr rs1).add (hcongr rs2)
  refine ⟨?_, ?_, ?_, ?_⟩
  · obtain ⟨h64, hred⟩ := hres _ (hlt rs1)
    exact ⟨_, h64, hred, hcongr rs1, execPmred_of_valid hv rd rs1⟩
  · exact ⟨_, hsum.1, hsum.2, hadd, execPmadd_of_valid hv rd rs1 rs2⟩
  · exact ⟨_, hsum.1, hsum.2, (sub_eq_add_mod_two _ _).symm ▸ hadd, execPmsub_of_valid hv rd rs1 rs2⟩
  · obtain ⟨h64, hred⟩ := hres _ (pmodp_lt (clmul (s.presidue rs1) (s.presidue rs2)) hm)
    refine ⟨_, h64, hred, (polyCongr_pmodp _ hm).trans ?_, execPmmul_of_valid hv rd rs1 rs2⟩
    rw [polyOf_clmul]
    exact (hcongr rs1).mul (hcongr rs2)

/-! ## The ring Z/mZ -/

section
variable {s : State} (hv : s.imodv = true) (rd rs1 rs2 : Reg)
include hv

theorem execImred_of_valid : exec (.imred rd rs1) s = .next ((s.setNat rd (s.iresidue rs1)).setCode 0) := by
  rw [exec, execImred, hv]
  rfl

theorem execImadd_of_valid : exec (.imadd rd rs1 rs2) s =
    .next ((s.setNat rd ((s.iresidue rs1 + s.iresidue rs2) % s.im)).setCode 0) := by
  rw [exec, execImadd, hv]
  rfl

theorem execImsub_of_valid : exec (.imsub rd rs1 rs2) s =
    .next ((s.setNat rd (imodm s.im ((s.iresidue rs1 : Int) - (s.iresidue rs2 : Int)))).setCode 0) := by
  rw [exec, execImsub, hv]
  rfl

theorem execImmul_of_valid : exec (.immul rd rs1 rs2) s =
    .next ((s.setNat rd (s.iresidue rs1 * s.iresidue rs2 % s.im)).setCode 0) := by
  rw [exec, execImmul, hv]
  rfl

end

/-- A natural number as a result is the integer it is. -/
theorem setNat_eq_setInt {n : Nat} {z : Int} (h : (n : Int) = z) (s : State) (r : Reg) :
    s.setNat r n = s.setInt r z := by
  rw [State.setNat, State.setInt, ← h, BitVec.ofInt_natCast]

theorem natCast_im {s : State} (h : 0 < s.imod.toInt) : (s.im : Int) = s.imod.toInt := Int.toNat_of_nonneg h.le

theorem natCast_iresidue {s : State} (h : 0 < s.imod.toInt) (r : Reg) :
    (s.iresidue r : Int) = s.s64 r % s.imod.toInt := by
  have him := natCast_im h
  rw [State.iresidue, imodm_eq (by omega), him]

/-- Settles O54: the held residues are the operands reduced, and `%` respects sum, difference and product. -/
theorem intRing : Obligations.IntRing := by
  intro s rd rs1 rs2 hv hm
  have him := natCast_im hm
  have hres := natCast_iresidue hm
  refine ⟨?_, ?_, ?_, ?_⟩
  · rw [execImred_of_valid hv, setNat_eq_setInt (hres rs1)]
  · rw [execImadd_of_valid hv, setNat_eq_setInt]
    rw [Int.natCast_mod, Int.natCast_add, him, hres, hres, ← Int.add_emod]
  · rw [execImsub_of_valid hv, setNat_eq_setInt]
    rw [imodm_eq (by omega), him, hres, hres, ← Int.sub_emod]
  · rw [execImmul_of_valid hv, setNat_eq_setInt]
    rw [Int.natCast_mod, Int.natCast_mul, him, hres, hres, ← Int.mul_emod]

end Sys2Proof.Machine
end

section
/-! PROOFS. The step on a host transaction and at reset (20_memory.md R62 to R68, 70_reset_and_hazards.md R320). -/

namespace Sys2Proof.Machine

/-! ## Host transactions -/

theorem hostWrite_register {s : State} (hf : s.fatal = false) {w : WinIndex} (h : w.toNat < 16) (v : Word) :
    hostWrite w v s = .next (s.set (w.setWidth 4) v) := by
  rw [hostWrite, hf, if_neg (by decide), if_pos (show w.toNat < Config.nreg from h)]

/-- A write to CMD stores the word and runs it (10_state.md R27). -/
theorem hostWrite_cmd {s : State} (hf : s.fatal = false) (v : Word) :
    hostWrite cmdIndex v s = runCmd { s with cmd := v } := by
  rw [hostWrite, hf, if_neg (by decide), if_neg (by decide), if_pos rfl]

theorem hostWrite_esticky {s : State} (hf : s.fatal = false) (v : Word) :
    hostWrite estickyIndex v s = .next { s with esticky := s.esticky &&& ~~~v } := by
  rw [hostWrite, hf, if_neg (by decide), if_neg (by decide), if_neg (by decide), if_pos rfl]

theorem hostWrite_other {s : State} (hf : s.fatal = false) {w : WinIndex} (h : 16 ≤ w.toNat) (hc : w ≠ cmdIndex)
    (he : w ≠ estickyIndex) (v : Word) : hostWrite w v s = .next s := by
  rw [hostWrite, hf, if_neg (by decide), if_neg (show ¬ w.toNat < Config.nreg from not_lt.mpr h), if_neg hc, if_neg he]

theorem runCmd_of_decode {s : State} {i : Instr} (h : decode s.cmd = .ok i) : runCmd s = exec i s := by
  rw [runCmd, h]

/-- Settles O4: a write to CMD stores the word, then decodes and runs it. -/
theorem stepRunsTheCommand : Obligations.StepRunsTheCommand := by
  intro s w i rest hr hs hf hq hd
  rw [step_of_hostq hr hs hq]
  have hf' : State.fatal { s with hostq := rest } = false := hf
  exact (hostWrite_cmd hf' w).trans (runCmd_of_decode hd)

/-- A read answers the word of the map (10_state.md R26, 20_memory.md R67). -/
theorem hostRead_eq (s : State) (w : WinIndex) : s.hostRead w = (windowMap s).getD w.toNat 0 := by
  have hx : s.x.toList.length = 16 := by simp
  by_cases hw : w.toNat < Config.nreg
  · have hw16 : w.toNat < 16 := hw
    rw [State.hostRead, if_pos hw, windowMap, List.append_assoc, List.getD_append _ _ _ _ (by omega)]
    simp [State.get, hw16, Nat.mod_eq_of_lt hw16]
  · obtain ⟨k, hk⟩ : ∃ k, w.toNat = 16 + k := ⟨w.toNat - 16, (Nat.add_sub_cancel' (not_lt.mp hw)).symm⟩
    have hk16 : k < 16 := by have := w.isLt; omega
    rw [State.hostRead, if_neg hw, windowMap, List.append_assoc, List.getD_append_right _ _ _ _ (by omega), hx, hk,
      Nat.add_sub_cancel_left]
    interval_cases k <;> rfl

/-- Settles O8: the map is read at the index, below 16 in the registers and from 16 on entry by entry. -/
theorem hostReadAnswers : Obligations.HostReadAnswers := by
  intro s w rest hr hs hq
  rw [step_of_hostq hr hs hq]
  exact congrArg (fun v => Host.Outcome.next { s with hostq := rest, reply := v }) (hostRead_eq s w)

/-- Settles O9: one case for each kind of index. -/
theorem hostWriteStores : Obligations.HostWriteStores := by
  intro s w v rest hr hs hf hq
  rw [step_of_hostq hr hs hq]
  have hf' : State.fatal { s with hostq := rest } = false := hf
  refine ⟨fun h => ?_, fun h => ?_, fun h hc he => ?_⟩
  · refine (hostWrite_register hf' h v).trans (congrArg Host.Outcome.next ?_)
    simp [State.set, Nat.mod_eq_of_lt h]
  · subst h
    exact hostWrite_esticky hf' v
  · exact hostWrite_other hf' h hc he v

/-! ## Reset -/

theorem get_reset (r : Reg) : State.reset.get r = 0 := Vector.getElem_replicate _

/-- Settles O7: both states have every named field at its reset value. -/
theorem resetValues : Obligations.ResetValues := by
  refine ⟨⟨get_reset, rfl, rfl, rfl, rfl, rfl, rfl, rfl, rfl, rfl, rfl, rfl⟩, fun s hr => ?_⟩
  exact ⟨_, step_of_reset hr, get_reset, rfl, rfl, rfl, rfl, rfl, rfl, rfl, rfl, rfl, rfl, rfl⟩

/-- Settles O11: the file of registers is read after it is written. -/
theorem registersHoldWhatIsWritten : Obligations.RegistersHoldWhatIsWritten := get_set

end Sys2Proof.Machine
end

section
/-! PROOFS. Host transactions in the fatal state (20_memory.md R75). -/

namespace Sys2Proof.Machine

/-- The fatal state is checked before the index of a write. -/
theorem hostWrite_of_fatal {s : State} (hf : s.fatal = true) (w : WinIndex) (v : Word) : hostWrite w v s = .next s := by
  rw [hostWrite, if_pos hf]

/-- Settles O10: a write is dropped by `hostWrite_of_fatal`, and a read answers as in every other state. -/
theorem fatalStateIgnoresWrites : Obligations.FatalStateIgnoresWrites := by
  intro s w v rest hr hs hf
  refine ⟨fun hq => ?_, fun hq => hostReadAnswers s w rest hr hs hq⟩
  have hf' : State.fatal { s with hostq := rest } = true := hf
  calc step s = serve (.write w v) { s with hostq := rest } := step_of_hostq hr hs hq
    _ = .next { s with hostq := rest } := hostWrite_of_fatal hf' w v

end Sys2Proof.Machine
end

section
/-! PROOFS. Decoding and encoding against the opcode map (30_encoding.md R81 to R87, R90, R92). Every format is one check
of the register fields, so the decoder is a lookup in the opcode map, and the inverse of the encoder is read off it. -/

namespace Sys2Proof

/-! ## The register fields of a format -/

/-- The destination fields of a command word, used or not (R81). -/
def Fields.dests (f : Fields) : List Reg := [f.rd, f.rd2, f.rd3]

/-- The source fields of a command word, used or not (R81). -/
def Fields.srcs (f : Fields) : List Reg := [f.rs1, f.rs2, f.rs3]

/-- A field that a format of `k` destinations and `n` sources does not use is not 0 (R84). -/
abbrev Fields.UnusedSet (f : Fields) (k n : Nat) : Prop := ∃ r ∈ f.dests.drop k ++ f.srcs.drop n, r ≠ 0

/-- The last two checks of R92 for a format of `k` destinations and `n` sources, and the answer where both pass. -/
def Fields.format {α : Type} (f : Fields) (k n : Nat) (a : α) : Except Illegal α :=
  if f.UnusedSet k n then .error .unusedField
  else if ¬ (f.dests.take k).Nodup then .error .equalDests
  else .ok a

theorem Fields.map_format {α β : Type} (f : Fields) (k n : Nat) (a : α) (g : α → β) :
    (f.format k n a).map g = f.format k n (g a) := by
  unfold Fields.format
  split
  · rfl
  · split <;> rfl

theorem Fields.format_eq_ok {α : Type} {f : Fields} {k n : Nat} {a b : α} (h : f.format k n a = .ok b) :
    b = a ∧ ¬ f.UnusedSet k n ∧ (f.dests.take k).Nodup := by
  unfold Fields.format at h
  split at h
  · cases h
  next hz =>
    split at h
    · cases h
    next hd => exact ⟨(Except.ok.inj h).symm, hz, not_not.mp hd⟩

/-- A format of at most one destination has no destinations to compare. -/
theorem Fields.format_of_le_one {α : Type} {f : Fields} {k n : Nat} {z : Prop} [Decidable z] (hk : k ≤ 1)
    (hz : ¬ f.UnusedSet k n ↔ z) (a : α) : f.format k n a = if z then .ok a else .error .unusedField := by
  have hd : (f.dests.take k).Nodup := by interval_cases k <;> simp [Fields.dests]
  simp only [Fields.format, ← hz, ite_not, hd, if_true]

theorem Fields.format_of_dests {α : Type} {f : Fields} {k n : Nat} {z d : Prop} [Decidable z] [Decidable d]
    (hz : ¬ f.UnusedSet k n ↔ z) (hd : ¬ (f.dests.take k).Nodup ↔ d) (a : α) :
    f.format k n a = if z then if d then .error .equalDests else .ok a else .error .unusedField := by
  simp only [Fields.format, ← hz, ← hd, ite_not]

theorem Fields.d0s0_eq (f : Fields) (c : Instr) : f.d0s0 c = f.format 0 0 c :=
  (format_of_le_one zero_le_one (by simp [UnusedSet, dests, srcs]) _).symm

theorem Fields.d0s1_eq (f : Fields) (c : Reg → Instr) : f.d0s1 c = f.format 0 1 (c f.rs1) :=
  (format_of_le_one zero_le_one (by simp [UnusedSet, dests, srcs]) _).symm

theorem Fields.d0s2_eq (f : Fields) (c : Reg → Reg → Instr) : f.d0s2 c = f.format 0 2 (c f.rs1 f.rs2) :=
  (format_of_le_one zero_le_one (by simp [UnusedSet, dests, srcs]) _).symm

theorem Fields.d1s0_eq (f : Fields) (c : Reg → Instr) : f.d1s0 c = f.format 1 0 (c f.rd) :=
  (format_of_le_one le_rfl (by simp [UnusedSet, dests, srcs]) _).symm

theorem Fields.d1s1_eq (f : Fields) (c : Reg → Reg → Instr) : f.d1s1 c = f.format 1 1 (c f.rd f.rs1) :=
  (format_of_le_one le_rfl (by simp [UnusedSet, dests, srcs]) _).symm

theorem Fields.d1s2_eq (f : Fields) (c : Reg → Reg → Reg → Instr) : f.d1s2 c = f.format 1 2 (c f.rd f.rs1 f.rs2) :=
  (format_of_le_one le_rfl (by simp [UnusedSet, dests, srcs]) _).symm

theorem Fields.d1s3_eq (f : Fields) (c : Reg → Reg → Reg → Reg → Instr) :
    f.d1s3 c = f.format 1 3 (c f.rd f.rs1 f.rs2 f.rs3) :=
  (format_of_le_one le_rfl (by simp [UnusedSet, dests, srcs]) _).symm

theorem Fields.d2s1_eq (f : Fields) (c : Reg → Reg → Reg → Instr) : f.d2s1 c = f.format 2 1 (c f.rd f.rd2 f.rs1) :=
  (format_of_dests (by simp [UnusedSet, dests, srcs]) (by simp [dests]) _).symm

theorem Fields.d2s2_eq (f : Fields) (c : Reg → Reg → Reg → Reg → Instr) :
    f.d2s2 c = f.format 2 2 (c f.rd f.rd2 f.rs1 f.rs2) :=
  (format_of_dests (by simp [UnusedSet, dests, srcs]) (by simp [dests]) _).symm

theorem Fields.d3s2_eq (f : Fields) (c : Reg → Reg → Reg → Reg → Reg → Instr) :
    f.d3s2 c = f.format 3 2 (c f.rd f.rd2 f.rd3 f.rs1 f.rs2) :=
  (format_of_dests (by simp [UnusedSet, dests, srcs]) (by simp [dests]; tauto) _).symm

/-! ## The decoder is a lookup in the opcode map -/

/-- What a command names: its op, its destinations and its sources. -/
abbrev Instr.named (i : Instr) : Nat × List Reg × List Reg := (i.opcode.toNat, i.dests, i.srcs)

/-- The row of an op in the opcode map (R83): the numbers of its destinations and sources. -/
abbrev formatOf (op : Nat) : Option (Nat × Nat × Nat) := Machine.formatTable.find? fun row => row.1 = op

/-- The op and the fields that a format of `k` destinations and `n` sources uses. -/
abbrev Fields.used (f : Fields) (k n : Nat) : Nat × List Reg × List Reg :=
  (f.op.toNat, f.dests.take k, f.srcs.take n)

/-- The checks of R86, R84 and R85 in this order, from the opcode map alone. -/
def Fields.check (f : Fields) : Except Illegal (Nat × List Reg × List Reg) :=
  (formatOf f.op.toNat).elim (.error .reservedOp) fun row =>
    f.format row.2.1 row.2.2 (f.used row.2.1 row.2.2)

/-- Row by row, the decoder has the format of the opcode map and names the fields the format uses; an op of no row is
reserved (R83, R86). -/
theorem Fields.map_named_decode (f : Fields) : f.decode.map Instr.named = f.check := by
  unfold Fields.decode Fields.check Fields.used
  generalize f.op.toNat = op
  split
  case h_64 =>
    have hnone : formatOf op = none := by
      rw [List.find?_eq_none]
      simp only [Machine.formatTable, List.cons_append, List.nil_append, List.forall_mem_cons, List.not_mem_nil,
        false_implies, implies_true, and_true, decide_eq_true_eq, @eq_comm Nat _ op]
      and_intros <;> assumption
    rw [hnone]
    rfl
  all_goals
    simp only [d0s0_eq, d0s1_eq, d0s2_eq, d1s0_eq, d1s1_eq, d1s2_eq, d1s3_eq, d2s1_eq, d2s2_eq, d3s2_eq]
    exact map_format ..

/-- The fields of bits 31:0, read from the whole word (R81). -/
theorem ofWord_low (w : Word) : Fields.ofWord (w.extractLsb' 0 32) =
    { op := w.extractLsb' 24 8, rd := w.extractLsb' 20 4, rd2 := w.extractLsb' 16 4, rd3 := w.extractLsb' 12 4,
      rs1 := w.extractLsb' 8 4, rs2 := w.extractLsb' 4 4, rs3 := w.extractLsb' 0 4 } := by
  simp only [Fields.ofWord, BitVec.extractLsb'_extractLsb'_of_le, Nat.reduceAdd, Nat.reduceLeDiff]

/-- The independent reading of R92 is the check of bits 63:32 (R87), then the checks of the fields. -/
theorem checkWord_eq (w : Word) : Machine.checkWord w =
    if w.extractLsb' 32 32 = 0 then (Fields.ofWord (w.extractLsb' 0 32)).check else .error .highBits := by
  rw [ofWord_low, ← ite_not]
  dsimp only [Machine.checkWord, Fields.check, formatOf]
  cases Machine.formatTable.find? fun row => row.1 = (w.extractLsb' 24 8).toNat <;> rfl

/-- Settles O2: under the check of bits 63:32 the two sides are `Fields.map_named_decode`. -/
theorem decodeMakesTheChecks : Obligations.DecodeMakesTheChecks := by
  intro w
  rw [decode, checkWord_eq]
  split
  · exact Fields.map_named_decode _
  · rfl

/-! ## Decoding inverts encoding -/

/-- Only the commands with two or three destinations need their well-formedness (R85). -/
theorem fields_decode {i : Instr} (h : i.Wf) : i.fields.decode = .ok i := by
  cases i with
  | pquorem rd rd2 rs1 rs2 => exact Laws.EncodeFields.pquorem rd rd2 rs1 rs2 h
  | pxgcd rd rd2 rd3 rs1 rs2 => exact Laws.EncodeFields.pxgcd rd rd2 rd3 rs1 rs2 h
  | psqrt rd rd2 rs1 => exact Laws.EncodeFields.psqrt rd rd2 rs1 h
  | fget rd rd2 rs1 => exact Laws.EncodeFields.fget rd rd2 rs1 h
  | ixgcd rd rd2 rd3 rs1 rs2 => exact Laws.EncodeFields.ixgcd rd rd2 rd3 rs1 rs2 h
  | _ => rfl

/-- Entries that are all 0 can be left out of a list of fields. -/
theorem getD_take_of_drop_eq_zero {l : List Reg} {k : Nat} (h : ∀ r ∈ l.drop k, r = 0) (j : Nat) :
    (l.take k).getD j 0 = l.getD j 0 := by
  have hl : l = l.take k ++ List.replicate (l.drop k).length 0 := by
    rw [← List.eq_replicate_of_mem h, List.take_append_drop]
  conv_rhs => rw [hl]
  rcases lt_or_ge j (l.take k).length with hj | hj
  · rw [List.getD_append _ _ _ _ hj]
  · rw [List.getD_append_right _ _ _ _ hj, List.getD_eq_default _ _ hj]
    exact (List.getElem?_getD_replicate_default_eq ..).symm

theorem Fields.check_eq_ok {f : Fields} {p : Nat × List Reg × List Reg} (h : f.check = .ok p) :
    ∃ k n, p = f.used k n ∧ ¬ f.UnusedSet k n ∧ (f.dests.take k).Nodup := by
  unfold Fields.check at h
  cases hrow : formatOf f.op.toNat with
  | none => rw [hrow] at h; cases h
  | some row =>
    rw [hrow, Option.elim_some] at h
    exact ⟨_, _, format_eq_ok h⟩

/-- Fields that decode are those the command is encoded with. -/
theorem Fields.wf_and_fields_of_decode {f : Fields} {i : Instr} (h : f.decode = .ok i) : i.Wf ∧ i.fields = f := by
  have hcheck : f.check = .ok i.named := by rw [← map_named_decode, h]; rfl
  obtain ⟨k, n, hnamed, hz, hd⟩ := check_eq_ok hcheck
  obtain ⟨hop, hdests, hsrcs⟩ : i.opcode.toNat = f.op.toNat ∧ i.dests = f.dests.take k ∧ i.srcs = f.srcs.take n := by
    simpa using hnamed
  simp only [Fields.UnusedSet, List.mem_append, not_exists, not_and, not_not] at hz
  have hD := getD_take_of_drop_eq_zero fun r hr => hz r (.inl hr)
  have hS := getD_take_of_drop_eq_zero fun r hr => hz r (.inr hr)
  refine ⟨show i.dests.Nodup from hdests ▸ hd, ?_⟩
  rw [Instr.fields, BitVec.eq_of_toNat_eq hop, hdests, hsrcs]
  simp only [hD, hS]
  rfl

/-- A word with bits 63:32 zero is packed from its fields. -/
theorem setWidth_toWord_ofWord {w : Word} (h : w.extractLsb' 32 32 = 0) :
    (Fields.ofWord (w.extractLsb' 0 32)).toWord.setWidth 64 = w := by
  rw [Fields.toWord_ofWord]
  have hw : w.toNat / 2 ^ 32 % 2 ^ 32 = 0 := by simpa [Nat.shiftRight_eq_div_pow] using congrArg BitVec.toNat h
  have hlt := w.isLt
  apply BitVec.eq_of_toNat_eq
  rw [BitVec.toNat_setWidth, BitVec.extractLsb'_toNat, Nat.shiftRight_zero]
  omega

/-- Settles O1: a command is decoded from its own fields, and what decodes has the fields of its command. -/
theorem decodeAndEncodeAgree : Obligations.DecodeAndEncodeAgree := by
  refine ⟨fun i hi => (decode_encode_eq i).trans (fields_decode hi), fun w i h => ?_⟩
  rw [decode] at h
  split at h
  next hw =>
    obtain ⟨hwf, hf⟩ := Fields.wf_and_fields_of_decode h
    exact ⟨hwf, by rw [encode, hf, setWidth_toWord_ofWord hw]⟩
  next => cases h

/-- Settles O3: the decoder evaluates on each word. -/
theorem sampleWordsDecode : Obligations.SampleWordsDecode :=
  ⟨rfl, rfl, rfl, rfl, rfl, rfl, rfl, rfl, rfl, rfl, rfl, rfl, rfl⟩

end Sys2Proof
end

section
/-! PROOFS. Words and commands that are rejected before they compute: an illegal word (30_encoding.md R92), and a command
without its context (30_encoding.md R94 (b), 70_reset_and_hazards.md R322). -/

namespace Sys2Proof.Machine

theorem runCmd_of_illegal {s : State} {e : Illegal} (h : decode s.cmd = .error e) :
    runCmd s = .next (raise .illegal s) := by
  rw [runCmd, h]
  rfl

theorem raise_illegal (s : State) : raise .illegal s = { s with
    ecmd := s.cmd, esticky := s.esticky ||| 2, status := (s.status &&& ~~~0xFF) ||| 1 } := rfl

/-- Settles O5: the write stores the word, and it is taken as E_ILLEGAL in the state that holds it. -/
theorem illegalWordRaises : Obligations.IllegalWordRaises := by
  intro s w e rest hr hs hf hq hd
  rw [step_of_hostq hr hs hq]
  have hf' : State.fatal { s with hostq := rest } = false := hf
  calc hostWrite cmdIndex w { s with hostq := rest }
      = runCmd { s with hostq := rest, cmd := w } := hostWrite_cmd hf' w
    _ = .next (raise .illegal { s with hostq := rest, cmd := w }) := runCmd_of_illegal hd
    _ = _ := congrArg Host.Outcome.next (raise_illegal _)

/-- A command needs no context, or checks the context of its op before it looks at its operands. -/
theorem exec_eq_needCtx (i : Instr) (s : State) :
    contextValid i s = true ∨ ∃ k, exec i s = finish s (needCtx (contextValid i s) k) := by
  cases i with
  | mnew | pdeg | padd | psub | pmul | pquorem | ppow | pgcd | pxgcd | pderiv | psqrt | bkmat | pfactor | pirr | plowirr
  | prandirr | ptotient | pmsetmod | igcd | ixgcd | ilcm | iphi | imodexp | imodrecip | ifact | ifactor | idivnext
  | itotient | imsetmod | pprim => exact .inl rfl
  | _ => exact .inr ⟨_, rfl⟩

/-- Settles O21: the check of the context is the first thing the command does. -/
theorem noContextRaises : Obligations.NoContextRaises := by
  intro i s h
  rcases exec_eq_needCtx i s with hv | ⟨k, hk⟩
  · exact absurd h (by simp [hv])
  · rw [hk, h, needCtx_false, finish_fails]

end Sys2Proof.Machine
end

section
/-! PROOFS. The commands that store a list of rows, or touch one cell of a bank (40_bitvector_bitmatrix.md R101 to R109,
42_f2polyfactor.md R174). -/

namespace Sys2Proof.Machine

/-! ## Storing and reading rows -/

/-- Storing a list from the first cell on: its cells hold the masked values, the others what they held. -/
theorem exists_memWriteAll_zero {s : State} {b : BankName} {n : Nat} {vs : List Nat} (hl : vs.length ≤ b.cap)
    (hw : bankWf b.cap (s.bank b)) : ∃ m, State.memWriteAll b n vs 0 s = .ok (s.setBank b m) ∧
      ∀ k, bankRead m k =
        if k < vs.length then BitVec.ofNat 64 (vs.getD k 0 % 2 ^ n) else bankRead (s.bank b) k := by
  obtain ⟨t, ht⟩ := memWriteAll_exists (b := b) (n := n) vs 0 s (by omega)
  obtain ⟨-, m, rfl, -, hr⟩ := memWriteAll_ok ht hw
  exact ⟨m, ht, fun k => by simpa using hr k⟩

theorem toNat_ofNat_of_lt_two_pow {n v : Nat} (hn : n ≤ 64) (hv : v < 2 ^ n) : (BitVec.ofNat 64 v).toNat = v := by
  rw [BitVec.toNat_ofNat, Nat.mod_eq_of_lt (hv.trans_le (Nat.pow_le_pow_right (by omega) hn))]

/-- Storing a list of rows of one width, at most 64: each is read back as it is. -/
theorem exists_memWriteAll_rows {s : State} {b : BankName} {n : Nat} {vs : List Nat} (hl : vs.length ≤ b.cap)
    (hw : bankWf b.cap (s.bank b)) (hn : n ≤ 64) (hvs : ∀ v ∈ vs, v < 2 ^ n) :
    ∃ m, State.memWriteAll b n vs 0 s = .ok (s.setBank b m) ∧
      (∀ k, (hk : k < vs.length) → (bankRead m k).toNat = vs[k]) ∧
      ∀ k, vs.length ≤ k → bankRead m k = bankRead (s.bank b) k := by
  obtain ⟨m, hm, hr⟩ := exists_memWriteAll_zero (n := n) hl hw
  refine ⟨m, hm, fun k hk => ?_, fun k hk => by rw [hr, if_neg (by omega)]⟩
  have hlt := hvs _ (List.getElem_mem hk)
  rw [hr, if_pos hk, List.getD_eq_getElem _ _ hk, Nat.mod_eq_of_lt hlt, toNat_ofNat_of_lt_two_pow hn hlt]

/-! ## MNEW -/

theorem maxRows_eq : (Config.maxRows : Int) = 64 := rfl

theorem maxCols_eq : (Config.maxCols : Int) = 64 := rfl

/-- Settles O24: the rows written are the zeros of R101, and every other cell is left. -/
theorem newMatrixIsZero : Obligations.NewMatrixIsZero := by
  intro s rs1 rs2 hw
  dsimp only
  have hr64 := maxRows_eq
  have hc64 := maxCols_eq
  simp only [exec, execMnew]
  constructor
  · intro h
    rw [if_pos (by omega), finish_fails]
  · intro h1 h2 h3 h4
    obtain ⟨m, hm, hr⟩ := exists_memWriteAll_zero (n := 64) (b := .mat) (vs := List.replicate (s.s64 rs1).toNat 0)
      (s := { s with mdim := dimWord (s.s64 rs1).toNat (s.s64 rs2).toNat })
      (by rw [List.length_replicate, BankName.cap]; omega) hw.1
    refine ⟨m, ?_, fun k => ?_⟩
    · rw [if_neg (by omega), hm, onCell_ok, finish_ok]
      rfl
    · rw [hr, List.length_replicate]
      split
      next hk => simp [hk]
      next => rfl

/-! ## One row -/

theorem leadInt_zero : leadInt 0 = -1 := by rw [leadInt, lead_eq_none_iff.mpr rfl]

theorem IsLeader.leadInt {v l : Nat} (h : IsLeader v l) : leadInt v = l := by
  rw [Machine.leadInt, lead_eq_some_iff.mpr h]

/-- MemWrite on one existing cell of MAT. -/
theorem exists_memWrite_mat {s : State} (hi : Inv s) {i : Nat} (h : i < s.nrows) (v : Nat) :
    ∃ m, s.memWrite .mat i s.ncols v = .ok { s with mat := m } ∧
      ∀ k, (bankRead m k).toNat = if k = i then v % 2 ^ s.ncols else (bankRead s.mat k).toNat := by
  refine ⟨_, memWrite_eq (hi.row_lt h), fun k => ?_⟩
  have hv : v % 2 ^ s.ncols < 2 ^ s.ncols := Nat.mod_lt _ (Nat.two_pow_pos _)
  rw [bankRead_bankWrite (Memory.wf_bank hi.memory .mat)]
  split
  · exact toNat_ofNat_of_lt_two_pow hi.mdim.2.2 hv
  · rfl

/-- Settles O25: the index is checked, and one cell is read or written through the width. -/
theorem rowCommands : Obligations.RowCommands := by
  intro s rd rs1 rs2 hi hv
  simp only [exec, execMsetrow, execMgetrow, execBvlead, hv, needCtx_true]
  constructor
  · intro h
    simp only [needIndex_of_out _ h, finish_fails, and_self]
  · intro h0 h
    have hlt : (s.s64 rs1).toNat < s.nrows := by omega
    simp only [needIndex_of_lt _ h0 h, memRead_eq (hi.row_lt hlt), onCell_ok, finish_ok]
    refine ⟨?_, trivial, fun hz => ?_, fun hz => ?_⟩
    · obtain ⟨m, hm, hr⟩ := exists_memWrite_mat hi hlt (s.u64 rs2)
      exact ⟨m, by rw [hm, onCell_ok, finish_ok], hr⟩
    · rw [hz, leadInt_zero]
      rfl
    · obtain ⟨l, hl⟩ := exists_isLeader hz
      refine ⟨l, hl, ?_⟩
      rw [hl.leadInt, setInt_eq_set, BitVec.ofInt_natCast, setNat_eq_set]

/-- MemRead of a whole existing cell. -/
theorem ofNat_cell_mod_two_pow (s : State) (b : BankName) (i : Nat) :
    BitVec.ofNat 64 ((s.cell b i).toNat % 2 ^ 64) = s.cell b i := by
  rw [Nat.mod_eq_of_lt (s.cell b i).isLt, BitVec.ofNat_toNat, BitVec.setWidth_eq]

/-- Settles O26: the index is checked against KROWS or FCOUNT, and the cell of that index is read. -/
theorem resultBankReads : Obligations.ResultBankReads := by
  intro s rd rd2 rs1 hi
  refine ⟨fun hv => ?_, fun hv => ?_⟩
  · simp only [exec, execKgetrow, hv, needCtx_true]
    refine ⟨fun h => ?_, fun h0 h => ?_⟩
    · rw [needIndex_of_out _ h, finish_fails]
    · have hcap : (s.s64 rs1).toNat < BankName.ker.cap := (by omega : _ < s.krows).trans_le hi.kdim.2.1
      rw [needIndex_of_lt _ h0 h, memRead_eq hcap, onCell_ok, finish_ok]
  · simp only [exec, execFget, hv, ne_eq, not_false_eq_true, decide_true, needCtx_true]
    refine ⟨fun h => ?_, fun h0 h => ?_⟩
    · rw [needIndex_of_out _ h, finish_fails]
    · have hcap : (s.s64 rs1).toNat < Config.facCap := (by omega : _ < s.fcount).trans_le hi.fstat.2.1
      rw [needIndex_of_lt _ h0 h, memRead_eq (b := .facb) hcap, onCell_ok, memRead_eq (b := .facm) hcap, onCell_ok,
        finish_ok, setNat_eq_set, setNat_eq_set, ofNat_cell_mod_two_pow, ofNat_cell_mod_two_pow]

/-! ## One bit -/

/-- Storing a row of the width of the matrix: all its bits are read back, and no other cell changes. -/
theorem exists_memWrite_row {s : State} (hi : Inv s) {i v : Nat} (h : i < s.nrows) (hv : v < 2 ^ s.ncols) :
    ∃ m, s.memWrite .mat i s.ncols v = .ok { s with mat := m } ∧
      (∀ k, k ≠ i → bankRead m k = bankRead s.mat k) ∧ ∀ b, (bankRead m i).getLsbD b = v.testBit b := by
  obtain ⟨m, hm, hr⟩ := exists_memWrite_mat hi h v
  refine ⟨m, hm, fun k hk => BitVec.eq_of_toNat_eq (by rw [hr, if_neg hk]), fun b => ?_⟩
  rw [← BitVec.testBit_toNat, hr, if_pos rfl, Nat.mod_eq_of_lt hv]

/-- Settles O27: both indices are checked, and the row is written back with one bit changed. -/
theorem bitCommands : Obligations.BitCommands := by
  intro s rd rs1 rs2 hi hv
  simp only [exec, execBvget, execBvset, execBvtgl, hv, needCtx_true]
  constructor
  · intro h
    by_cases hrow : s.s64 rs1 < 0 ∨ (s.nrows : Int) ≤ s.s64 rs1
    · simp only [needIndex_of_out _ hrow, finish_fails, and_self]
    · have hcol : s.s64 rs2 < 0 ∨ (s.ncols : Int) ≤ s.s64 rs2 := by omega
      have h0 : 0 ≤ s.s64 rs1 := by omega
      have hlt : s.s64 rs1 < s.nrows := by omega
      simp only [needIndex_of_lt _ h0 hlt, needIndex_of_out _ hcol, finish_fails, and_self]
  · intro h0 h hj0 hj
    have hlt : (s.s64 rs1).toNat < s.nrows := by omega
    have hrow : (s.cell .mat (s.s64 rs1).toNat).toNat % 2 ^ s.ncols < 2 ^ s.ncols := Nat.mod_lt _ (Nat.two_pow_pos _)
    have hbit : 2 ^ (s.s64 rs2).toNat < 2 ^ s.ncols := Nat.pow_lt_pow_right (by omega) (by omega)
    simp only [needIndex_of_lt _ h0 h, needIndex_of_lt _ hj0 hj, memRead_eq (hi.row_lt hlt), onCell_ok, finish_ok,
      Nat.one_shiftLeft]
    refine ⟨?_, ?_, ?_⟩
    · rw [State.setBool, Bool.toNat, Bool.cond_eq_ite]
    · obtain ⟨m, hm, hr, hb⟩ := exists_memWrite_row hi hlt (Nat.or_lt_two_pow hrow hbit)
      refine ⟨m, by rw [hm, onCell_ok, finish_ok], hr, fun b => ?_⟩
      rw [hb, Nat.testBit_or, Nat.testBit_two_pow, Bool.or_comm]
      simp only [eq_comm]
    · obtain ⟨m, hm, hr, hb⟩ := exists_memWrite_row hi hlt (Nat.xor_lt_two_pow hrow hbit)
      refine ⟨m, by rw [hm, onCell_ok, finish_ok], hr, fun b => ?_⟩
      rw [hb, Nat.testBit_xor, Nat.testBit_two_pow]
      by_cases e : b = (s.s64 rs2).toNat
      · simp [e]
      · simp [e, Ne.symm e]

end Sys2Proof.Machine
end

section
/-! PROOFS. The row space over GF(2): its closure under sums, the elimination that keeps it, and the number of its
elements (40_bitvector_bitmatrix.md R110, R111, R113). -/

namespace Sys2Proof.Machine

/-! ## Sums of rows -/

theorem zero_mem_rowSpace (rows : List Nat) : 0 ∈ rowSpace rows := ⟨[], List.nil_sublist _, rfl⟩

theorem mem_rowSpace_of_mem {rows : List Nat} {r : Nat} (h : r ∈ rows) : r ∈ rowSpace rows :=
  ⟨[r], List.singleton_sublist.mpr h, by simp [xorAll]⟩

theorem rowSpace_nil : rowSpace [] = {0} := by
  ext v
  simp [rowSpace, xorAll, eq_comm]

/-- The sums without the first row, and those with it. -/
theorem rowSpace_cons (r : Nat) (rows : List Nat) :
    rowSpace (r :: rows) = rowSpace rows ∪ (fun w => r ^^^ w) '' rowSpace rows := by
  ext v
  constructor
  · rintro ⟨sub, hsub, rfl⟩
    rcases List.sublist_cons_iff.mp hsub with h | ⟨sub', rfl, h⟩
    · exact .inl ⟨sub, h, rfl⟩
    · exact .inr ⟨_, ⟨sub', h, rfl⟩, rfl⟩
  · rintro (⟨sub, h, rfl⟩ | ⟨_, ⟨sub, h, rfl⟩, rfl⟩)
    · exact ⟨sub, h.cons r, rfl⟩
    · exact ⟨r :: sub, h.cons_cons r, rfl⟩

theorem xor_mem_rowSpace {rows : List Nat} {a b : Nat} (ha : a ∈ rowSpace rows) (hb : b ∈ rowSpace rows) :
    a ^^^ b ∈ rowSpace rows := by
  induction rows generalizing a b with
  | nil => simp_all [rowSpace_nil]
  | cons r rows ih =>
    rw [rowSpace_cons] at ha hb ⊢
    rcases ha with ha | ⟨a, ha, rfl⟩ <;> rcases hb with hb | ⟨b, hb, rfl⟩
    · exact .inl (ih ha hb)
    · exact .inr ⟨a ^^^ b, ih ha hb, Nat.xor_left_comm r a b⟩
    · exact .inr ⟨a ^^^ b, ih ha hb, (Nat.xor_assoc r a b).symm⟩
    · refine .inl ?_
      have : r ^^^ a ^^^ (r ^^^ b) = a ^^^ b := by
        rw [Nat.xor_comm r a, Nat.xor_assoc, Nat.xor_xor_cancel_left]
      exact this ▸ ih ha hb

/-- A property of 0 and of the rows that is kept under sums holds in the row space. -/
theorem rowSpace_forall {P : Nat → Prop} (h0 : P 0) (hP : ∀ a b, P a → P b → P (a ^^^ b)) {rows : List Nat}
    (h : ∀ r ∈ rows, P r) : ∀ v ∈ rowSpace rows, P v := by
  induction rows with
  | nil => simpa [rowSpace_nil] using h0
  | cons r rows ih =>
    rw [List.forall_mem_cons] at h
    rw [rowSpace_cons]
    rintro v (hv | ⟨w, hw, rfl⟩)
    · exact ih h.2 v hv
    · exact hP r w h.1 (ih h.2 w hw)

theorem rowSpace_subset_of_mem {rows rows' : List Nat} (h : ∀ r ∈ rows, r ∈ rowSpace rows') :
    rowSpace rows ⊆ rowSpace rows' :=
  rowSpace_forall (zero_mem_rowSpace _) (fun _ _ => xor_mem_rowSpace) h

/-- Two matrices whose rows are sums of each other's rows have the same row space. -/
theorem rowSpace_eq_of_mem {rows rows' : List Nat} (h : ∀ r ∈ rows, r ∈ rowSpace rows')
    (h' : ∀ r ∈ rows', r ∈ rowSpace rows) : rowSpace rows = rowSpace rows' :=
  (rowSpace_subset_of_mem h).antisymm (rowSpace_subset_of_mem h')

theorem rowSpace_mono {rows rows' : List Nat} (h : rows ⊆ rows') : rowSpace rows ⊆ rowSpace rows' :=
  rowSpace_subset_of_mem fun _ hr => mem_rowSpace_of_mem (h hr)

/-! ## Elimination keeps the row space -/

/-- Moving a row out of a list loses no other row. -/
theorem mem_tail_set_or_eq {rows : List Nat} {p r : Nat} (hp : p < rows.length) (hr : r ∈ rows) :
    r = rows.getD p 0 ∨ r ∈ (rows.set p (rows.headD 0)).tail := by
  cases rows with
  | nil => simp at hr
  | cons a t =>
    cases p with
    | zero => simpa using hr
    | succ p =>
      simp only [List.length_cons, Nat.add_lt_add_iff_right] at hp
      simp only [List.headD_cons, List.set_cons_succ, List.tail_cons, List.getD_cons_succ,
        List.getD_eq_getElem _ _ hp]
      rcases List.mem_cons.mp hr with rfl | hr
      · exact .inr (List.mem_set hp _)
      · obtain ⟨q, hq, rfl⟩ := List.mem_iff_getElem.mp hr
        by_cases hpq : p = q
        · exact .inl (by simp only [hpq])
        · refine .inr (List.mem_iff_getElem.mpr ⟨q, by simpa using hq, ?_⟩)
          rw [List.getElem_set_ne hpq]

/-- A column of phase 1 loses nothing of the span: every old row is a sum of new ones. -/
theorem mem_rowSpace_elimColumn (st : List Nat × List Nat) (c : Nat) :
    ∀ r ∈ st.1 ++ st.2, r ∈ rowSpace ((elimColumn st c).1 ++ (elimColumn st c).2) := by
  unfold elimColumn
  split
  · exact fun r hr => mem_rowSpace_of_mem hr
  next p h =>
    obtain ⟨hp, -⟩ := List.findIdx?_eq_some_iff_getElem.mp h
    intro r hr
    rcases List.mem_append.mp hr with hr | hr
    · exact mem_rowSpace_of_mem (by simp [hr])
    rcases mem_tail_set_or_eq hp hr with rfl | hr
    · exact mem_rowSpace_of_mem (by simp)
    set pivot := st.2.getD p 0
    have hpivot : pivot ∈ st.1 ++ [pivot] := by simp
    have hmapped := List.mem_map_of_mem (f := fun r => if r.testBit c then r ^^^ pivot else r) hr
    have hsum := mem_rowSpace_of_mem (List.mem_append_right (st.1 ++ [pivot]) hmapped)
    by_cases hc : r.testBit c
    · rw [if_pos hc] at hsum
      have := xor_mem_rowSpace hsum (mem_rowSpace_of_mem (List.mem_append_left _ hpivot))
      rwa [Nat.xor_xor_cancel_right] at this
    · rwa [if_neg hc] at hsum

theorem rowSpace_forwardElim (nc : Nat) (rows : List Nat) : rowSpace (forwardElim nc rows) = rowSpace rows := by
  have key : ∀ cs : List Nat, ∀ st : List Nat × List Nat,
      rowSpace (st.1 ++ st.2) ⊆ rowSpace ((cs.foldl elimColumn st).1 ++ (cs.foldl elimColumn st).2) := by
    intro cs
    induction cs with
    | nil => exact fun _ => subset_rfl
    | cons c cs ih =>
      exact fun st => (rowSpace_subset_of_mem (mem_rowSpace_elimColumn st c)).trans (ih (elimColumn st c))
  refine rowSpace_eq_of_mem ?_ fun r hr => key (List.range nc) ([], rows) (mem_rowSpace_of_mem hr)
  exact forwardElim_forall (fun _ _ => xor_mem_rowSpace) nc fun _ => mem_rowSpace_of_mem

theorem rowSpace_backSubst (rows : List Nat) : rowSpace (backSubst rows) = rowSpace rows := by
  refine rowSpace_eq_of_mem (backSubst_forall (fun _ _ => xor_mem_rowSpace) fun _ => mem_rowSpace_of_mem) ?_
  induction rows with
  | nil => simp
  | cons r below ih =>
    have htail : rowSpace below ⊆ rowSpace (backSubst (r :: below)) :=
      rowSpace_subset_of_mem fun w hw => rowSpace_mono (List.subset_cons_self _ _) (ih w hw)
    have hadded : r ^^^ below.foldl clearAt r ∈ rowSpace below :=
      foldl_clearAt_induction (P := fun a => r ^^^ a ∈ rowSpace below)
        (fun a ha k hk => Nat.xor_assoc r a k ▸ xor_mem_rowSpace ha (mem_rowSpace_of_mem hk))
        (by rw [Nat.xor_self]; exact zero_mem_rowSpace _)
    refine List.forall_mem_cons.mpr ⟨?_, fun w hw => htail (mem_rowSpace_of_mem hw)⟩
    have := xor_mem_rowSpace (htail hadded) (mem_rowSpace_of_mem (List.mem_cons_self ..))
    rwa [Nat.xor_xor_cancel_right] at this

/-- rref keeps the row space (R111). -/
theorem rowSpace_rref (nc : Nat) (rows : List Nat) : rowSpace (rref nc rows) = rowSpace rows :=
  (rowSpace_backSubst _).trans (rowSpace_forwardElim nc rows)

/-! ## The reduced form -/

/-- Row `b` stands below row `a` in a reduced echelon form: also the column of its leader is 0 in row `a` (R111). -/
def ReducedBelow (a b : Nat) : Prop := Below a b ∧ ∀ l, IsLeader b l → a.testBit l = false

theorem Below.testBit_leader {a b l : Nat} (h : Below a b) (hl : IsLeader a l) : b.testBit l = false := by
  rcases h with rfl | ⟨l1, l2, h1, h2, hlt⟩
  · exact Nat.zero_testBit l
  · exact h2.2 l (hl.unique h1 ▸ hlt)

/-- Each of two rows has a 0 in the column of the other's leader. -/
def Apart (a b : Nat) : Prop :=
  (∀ l, IsLeader a l → b.testBit l = false) ∧ ∀ l, IsLeader b l → a.testBit l = false

theorem ReducedBelow.apart {a b : Nat} (h : ReducedBelow a b) : Apart a b := ⟨fun _ => h.1.testBit_leader, h.2⟩

theorem testBit_clearAt {r k l : Nat} (h : IsLeader k l) : (clearAt r k).testBit l = false := by
  rw [clearAt, lead_eq_some_iff.mpr h]
  cases hr : r.testBit l <;> simp [hr, h.1]

/-- Adding the later rows of an echelon form into a row clears the column of each one's leader. -/
theorem testBit_foldl_clearAt {below : List Nat} (h : below.Pairwise Below) {k l : Nat} (hk : k ∈ below)
    (hl : IsLeader k l) (r : Nat) : (below.foldl clearAt r).testBit l = false := by
  induction below generalizing r with
  | nil => simp at hk
  | cons k' below ih =>
    rw [List.pairwise_cons] at h
    rcases List.mem_cons.mp hk with rfl | hk
    · rw [List.foldl_cons]
      refine foldl_clearAt_induction (P := fun a => a.testBit l = false) (fun a ha j hj => ?_) (testBit_clearAt hl)
      rw [Nat.testBit_xor, ha, (h.1 j hj).testBit_leader hl]
      rfl
    · exact ih h.2 hk _

theorem pairwise_reducedBelow_backSubst {rows : List Nat} (h : rows.Pairwise Below) :
    (backSubst rows).Pairwise ReducedBelow := by
  induction rows with
  | nil => exact List.Pairwise.nil
  | cons r below ih =>
    have hhead := (List.pairwise_cons.mp (pairwise_backSubst h)).1
    rw [List.pairwise_cons] at h
    refine List.pairwise_cons.mpr ⟨fun b hb => ⟨hhead b hb, fun l hl => ?_⟩, ih h.2⟩
    obtain ⟨a, ha, hab, hz⟩ := exists_of_mem_backSubst h.2 hb
    have hb0 : b ≠ 0 := fun e => isLeader_zero l (e ▸ hl)
    obtain ⟨l', hl'⟩ := exists_isLeader fun e => hb0 (hz e)
    exact testBit_foldl_clearAt h.2 ha (hl.unique (hab l' hl') ▸ hl') r

/-- The rows of rref stand in reduced echelon form (R111). -/
theorem pairwise_reducedBelow_rref {nc : Nat} {rows : List Nat} (h : ∀ r ∈ rows, r < 2 ^ nc) :
    (rref nc rows).Pairwise ReducedBelow :=
  pairwise_reducedBelow_backSubst (pairwise_forwardElim h)

theorem isEchelon_of_pairwise {rows : List Nat} (h : rows.Pairwise ReducedBelow) : IsEchelon rows := by
  have hget := List.pairwise_iff_getElem.mp h
  constructor
  · intro i k hik hk hne
    rw [List.getD_eq_getElem _ _ hk] at hne ⊢
    rw [List.getD_eq_getElem _ _ (hik.trans hk)]
    exact (hget i k _ hk hik).1.resolve_left hne
  · intro i k l hi hk hik hl
    rw [List.getD_eq_getElem _ _ hi] at hl
    rw [List.getD_eq_getElem _ _ hk]
    rcases lt_or_gt_of_ne hik with hlt | hlt
    · exact (hget i k hi hk hlt).apart.1 l hl
    · exact (hget k i hk hi hlt).apart.2 l hl

/-! ## The number of elements -/

theorem finite_rowSpace (rows : List Nat) : (rowSpace rows).Finite := by
  induction rows with
  | nil => simp [rowSpace_nil]
  | cons r rows ih =>
    rw [rowSpace_cons]
    exact ih.union (ih.image _)

/-- A row that is no sum of the others doubles the row space. -/
theorem ncard_rowSpace_cons {r : Nat} {rows : List Nat} (h : r ∉ rowSpace rows) :
    (rowSpace (r :: rows)).ncard = 2 * (rowSpace rows).ncard := by
  have hfin := finite_rowSpace rows
  have hdisj : Disjoint (rowSpace rows) ((fun w => r ^^^ w) '' rowSpace rows) := by
    rw [Set.disjoint_right]
    rintro _ ⟨w, hw, rfl⟩ hrw
    exact h (Nat.xor_xor_cancel_right r w ▸ xor_mem_rowSpace hrw hw)
  rw [rowSpace_cons, Set.ncard_union_eq hdisj hfin (hfin.image _),
    Set.ncard_image_of_injective _ (Nat.xor_right_injective), two_mul]

theorem rowSpace_testBit_eq_false {rows : List Nat} {c : Nat} (h : ∀ r ∈ rows, r.testBit c = false) :
    ∀ v ∈ rowSpace rows, v.testBit c = false :=
  rowSpace_forall (P := fun v => v.testBit c = false) (Nat.zero_testBit c)
    (fun a b ha hb => by rw [Nat.testBit_xor, ha, hb]; rfl) h

/-- Rows that each have a 1 in a column of their own, where the rows after it have a 0, are linearly independent: their
row space has 2^n elements. -/
theorem ncard_rowSpace_map (row col : Nat → Nat) {l : List Nat} (hrow : ∀ i ∈ l, (row i).testBit (col i) = true)
    (hcol : l.Pairwise fun i j => (row j).testBit (col i) = false) :
    (rowSpace (l.map row)).ncard = 2 ^ l.length := by
  induction l with
  | nil => simp [rowSpace_nil]
  | cons i l ih =>
    rw [List.forall_mem_cons] at hrow
    rw [List.pairwise_cons] at hcol
    have hfresh : row i ∉ rowSpace (l.map row) := fun h => by
      have := rowSpace_testBit_eq_false (List.forall_mem_map.mpr hcol.1) _ h
      simp [hrow.1] at this
    rw [List.map_cons, ncard_rowSpace_cons hfresh, ih hrow.2 hcol.2, List.length_cons, pow_succ']

/-! ## The pivot rows -/

/-- The non-zero rows of a reduced echelon form of `nc` columns. -/
structure IsPivots (nc : Nat) (pivots : List Nat) : Prop where
  reduced : pivots.Pairwise ReducedBelow
  ne_zero : ∀ e ∈ pivots, e ≠ 0
  lt : ∀ e ∈ pivots, e < 2 ^ nc

theorem isPivots_pivotRows {nc : Nat} {rows : List Nat} (h : ∀ r ∈ rows, r < 2 ^ nc) :
    IsPivots nc (pivotRows (rref nc rows)) where
  reduced := (pairwise_reducedBelow_rref h).sublist (List.takeWhile_sublist _)
  ne_zero := fun e he => by simpa using List.mem_takeWhile_imp he
  lt := fun e he => rref_forall (P := (· < 2 ^ nc)) (fun _ _ => Nat.xor_lt_two_pow) nc h e
    ((List.takeWhile_sublist _).subset he)

/-- The rows after the first zero row of an echelon form are 0. -/
theorem mem_pivotRows_or_eq_zero {rows : List Nat} (h : rows.Pairwise Below) :
    ∀ r ∈ rows, r ∈ pivotRows rows ∨ r = 0 := by
  induction rows with
  | nil => simp
  | cons r rows ih =>
    rw [List.pairwise_cons] at h
    by_cases hr : r = 0
    · refine List.forall_mem_cons.mpr ⟨.inr hr, fun w hw => .inr ?_⟩
      exact (h.1 w hw).resolve_right fun ⟨l, _, hl, _⟩ => isLeader_zero l (hr ▸ hl)
    · have hcons : pivotRows (r :: rows) = r :: pivotRows rows := List.takeWhile_cons_of_pos (by simpa using hr)
      rw [hcons]
      exact List.forall_mem_cons.mpr ⟨.inl (by simp), fun w hw => (ih h.2 w hw).imp_left (List.mem_cons_of_mem _)⟩

/-- The pivot rows span the row space of the matrix. -/
theorem rowSpace_pivotRows_rref {nc : Nat} {rows : List Nat} (h : ∀ r ∈ rows, r < 2 ^ nc) :
    rowSpace (pivotRows (rref nc rows)) = rowSpace rows := by
  rw [← rowSpace_rref nc rows]
  refine rowSpace_eq_of_mem (fun r hr => mem_rowSpace_of_mem ((List.takeWhile_sublist _).subset hr)) fun r hr => ?_
  rcases mem_pivotRows_or_eq_zero (pairwise_rref h) r hr with hr | rfl
  · exact mem_rowSpace_of_mem hr
  · exact zero_mem_rowSpace _

/-- The column of a row's leader. -/
def leaderOf (e : Nat) : Nat := (lead e).getD 0

theorem IsLeader.leaderOf_eq {e l : Nat} (h : IsLeader e l) : leaderOf e = l := by
  rw [leaderOf, lead_eq_some_iff.mpr h, Option.getD_some]

theorem isLeader_leaderOf {e : Nat} (h : e ≠ 0) : IsLeader e (leaderOf e) := by
  obtain ⟨l, hl⟩ := exists_isLeader h
  rwa [hl.leaderOf_eq]

section
variable {nc : Nat} {pivots : List Nat} (hp : IsPivots nc pivots)
include hp

/-- The column of a pivot row's leader is 0 in every other pivot row. -/
theorem IsPivots.testBit_leader {e e' l : Nat} (he : e ∈ pivots) (he' : e' ∈ pivots) (hne : e ≠ e')
    (hl : IsLeader e l) : e'.testBit l = false := by
  have hsymm : Std.Symm Apart := ⟨fun _ _ h => h.symm⟩
  exact ((hp.reduced.imp ReducedBelow.apart).forall he he' hne).1 l hl

theorem IsPivots.eq_of_isLeader {e e' l : Nat} (he : e ∈ pivots) (he' : e' ∈ pivots) (hl : IsLeader e l)
    (hl' : e'.testBit l = true) : e = e' := by
  by_contra hne
  simp [hp.testBit_leader he he' hne hl] at hl'

/-- The pivot rows are linearly independent (R113). -/
theorem IsPivots.ncard_rowSpace : (rowSpace pivots).ncard = 2 ^ pivots.length := by
  have := ncard_rowSpace_map id leaderOf (l := pivots) (fun e he => (isLeader_leaderOf (hp.ne_zero e he)).1)
    (hp.reduced.imp_of_mem fun {a b} ha _ hab => hab.apart.1 _ (isLeader_leaderOf (hp.ne_zero a ha)))
  rwa [List.map_id] at this

end

/-- The row space has 2^rank elements (R113). -/
theorem ncard_rowSpace_eq {nc : Nat} {rows : List Nat} (h : ∀ r ∈ rows, r < 2 ^ nc) :
    (rowSpace rows).ncard = 2 ^ rankof nc rows := by
  rw [← rowSpace_pivotRows_rref h]
  exact (isPivots_pivotRows h).ncard_rowSpace

/-! ## MREF and MRANK -/

theorem matrix_lt (s : State) : ∀ r ∈ s.matrix, r < 2 ^ s.ncols :=
  List.forall_mem_map.mpr fun _ _ => Nat.mod_lt _ (Nat.two_pow_pos _)

theorem length_matrix (s : State) : s.matrix.length = s.nrows := by
  rw [State.matrix, List.length_map, List.length_range]

/-- The rows MREF, MRANK and MKER work on are those of the matrix (R114 to R116). -/
theorem Inv.matRows_eq_matrix {s : State} (hi : Inv s) : s.matRows = .ok s.matrix := by
  rw [State.matrix, List.range_eq_range']
  exact memReadAll_eq _ _ (by rw [Nat.zero_add]; exact hi.mdim.2.1)

/-- Settles O28: the rows are replaced by those of rref. -/
theorem echelonFormInPlace : Obligations.EchelonFormInPlace := by
  intro s hi hv
  have hlen : (rref s.ncols s.matrix).length = s.nrows := (length_rref _ _).trans (length_matrix s)
  have hlt := rref_forall (P := (· < 2 ^ s.ncols)) (fun _ _ => Nat.xor_lt_two_pow) s.ncols (matrix_lt s)
  obtain ⟨m, hm, hr, hrest⟩ := exists_memWriteAll_rows (s := s) (b := .mat) (hlen.trans_le hi.mdim.2.1)
    hi.memory.1 hi.mdim.2.2 hlt
  have hmatrix : State.matrix { s with mat := m } = rref s.ncols s.matrix := by
    refine List.ext_getElem ((length_matrix _).trans hlen.symm) fun k h1 h2 => ?_
    have hcell : (bankRead m k).toNat % 2 ^ s.ncols = (rref s.ncols s.matrix)[k] := by
      rw [hr k h2, Nat.mod_eq_of_lt (hlt _ (List.getElem_mem h2))]
    rw [← hcell]
    simp only [State.matrix, List.getElem_map, List.getElem_range]
    rfl
  refine ⟨m, ?_, ?_, ?_, fun k hk => hrest k (hlen.trans_le hk)⟩
  · simp only [exec, execMref, hv, needCtx_true, hi.matRows_eq_matrix, onCell_ok, hm, finish_ok]
    rfl
  · rw [hmatrix]
    exact isEchelon_of_pairwise (pairwise_reducedBelow_rref (matrix_lt s))
  · rw [hmatrix, rowSpace_rref]

/-- Settles O29: the rank is the number of pivot rows, which are a basis of the row space. -/
theorem rankOfRowSpace : Obligations.RankOfRowSpace := by
  intro s rd hi hv
  refine ⟨rankof s.ncols s.matrix, ncard_rowSpace_eq (matrix_lt s), ?_⟩
  simp only [exec, execMrank, hv, needCtx_true, hi.matRows_eq_matrix, onCell_ok, finish_ok]

end Sys2Proof.Machine
end

section
/-! PROOFS. The kernel basis: one vector for each free column, which span the right nullspace
(40_bitvector_bitmatrix.md R112, R116, R117). -/

namespace Sys2Proof.Machine

/-! ## Free columns -/

/-- The columns that no pivot row has as its leader, ascending (R112): those `kernelBasis` runs over. -/
def freeColumns (nc : Nat) (pivots : List Nat) : List Nat :=
  (List.range nc).filter fun c => !(pivots.map lead).contains (some c)

theorem mem_freeColumns {nc c : Nat} {pivots : List Nat} :
    c ∈ freeColumns nc pivots ↔ c < nc ∧ ¬ ∃ e ∈ pivots, IsLeader e c := by
  simp [freeColumns, lead_eq_some_iff]

/-- The kernel vectors of the free columns, in the order of the columns (R112). -/
def kernelVectors (nc : Nat) (pivots : List Nat) : List Nat := (freeColumns nc pivots).map (kernelVector pivots)

theorem length_kernelVectors (nc : Nat) (pivots : List Nat) :
    (kernelVectors nc pivots).length = (freeColumns nc pivots).length := List.length_map _

theorem pairwise_freeColumns (nc : Nat) (pivots : List Nat) : (freeColumns nc pivots).Pairwise (· < ·) :=
  List.pairwise_lt_range.filter _

/-- A leader in the span of echelon rows is the leader of one of them. -/
theorem exists_isLeader_of_mem_rowSpace {rows : List Nat} (h : rows.Pairwise Below) (h0 : ∀ e ∈ rows, e ≠ 0)
    {v c : Nat} (hv : v ∈ rowSpace rows) (hc : IsLeader v c) : ∃ e ∈ rows, IsLeader e c := by
  induction rows generalizing v c with
  | nil =>
    rw [rowSpace_nil, Set.mem_singleton_iff] at hv
    exact absurd (hv ▸ hc) (isLeader_zero c)
  | cons r rows ih =>
    rw [List.pairwise_cons] at h
    rw [List.forall_mem_cons] at h0
    rw [rowSpace_cons] at hv
    rcases hv with hv | ⟨w, hw, rfl⟩
    · obtain ⟨e, he, hl⟩ := ih h.2 h0.2 hv hc
      exact ⟨e, List.mem_cons_of_mem _ he, hl⟩
    · obtain ⟨l, hl⟩ := exists_isLeader h0.1
      have hzero : ∀ j ≤ l, w.testBit j = false := fun j hj => by
        refine rowSpace_testBit_eq_false (fun e he => ?_) w hw
        obtain ⟨l1, l2, h1, h2, hlt⟩ := (h.1 e he).resolve_left (h0.2 e he)
        exact h2.2 j (by have := hl.unique h1; omega)
      exact ⟨r, by simp, hc.unique (hl.xor hzero) ▸ hl⟩

/-! ## Kernel vectors -/

theorem kernelVector_nil (f : Nat) : kernelVector [] f = 2 ^ f := Nat.one_shiftLeft f

theorem kernelVector_append {e l : Nat} (h : IsLeader e l) (pivots : List Nat) (f : Nat) :
    kernelVector (pivots ++ [e]) f =
      if e.testBit f then kernelVector pivots f ||| 2 ^ l else kernelVector pivots f := by
  rw [kernelVector, List.foldl_append, List.foldl_cons, List.foldl_nil, lead_eq_some_iff.mpr h, ← Nat.one_shiftLeft]
  rfl

/-- The bits of a kernel vector: its own column, and each leader whose row has a 1 in that column (R112). -/
theorem testBit_kernelVector {pivots : List Nat} (h0 : ∀ e ∈ pivots, e ≠ 0) (f j : Nat) :
    (kernelVector pivots f).testBit j = true ↔ j = f ∨ ∃ e ∈ pivots, IsLeader e j ∧ e.testBit f = true := by
  induction pivots using List.reverseRecOn with
  | nil => simp [kernelVector_nil, Nat.testBit_two_pow, eq_comm (a := f)]
  | append_singleton pivots e ih =>
    obtain ⟨l, hl⟩ := exists_isLeader (h0 e (by simp))
    have hlj : IsLeader e j ↔ l = j := ⟨hl.unique, fun h => h ▸ hl⟩
    have ih := ih fun e he => h0 e (by simp [he])
    rw [kernelVector_append hl]
    cases hf : e.testBit f <;>
      simp [ih, hf, or_and_right, exists_or, hlj, Nat.testBit_two_pow, or_assoc]

section
variable {nc : Nat} {pivots : List Nat} (hp : IsPivots nc pivots)
include hp

/-- The free columns and the leaders are all the columns (R112). -/
theorem IsPivots.length_freeColumns : (freeColumns nc pivots).length + pivots.length = nc := by
  have hleader : ∀ e ∈ pivots, IsLeader e (leaderOf e) := fun e he => isLeader_leaderOf (hp.ne_zero e he)
  have hnodup : (pivots.map leaderOf).Nodup := by
    refine List.pairwise_map.mpr (hp.reduced.imp_of_mem fun {a b} ha hb hab heq => ?_)
    have := hab.apart.1 _ (hleader a ha)
    rw [heq, (hleader b hb).1] at this
    cases this
  have hdisj : (freeColumns nc pivots).Disjoint (pivots.map leaderOf) := fun c hc hc' => by
    obtain ⟨e, he, rfl⟩ := List.mem_map.mp hc'
    exact (mem_freeColumns.mp hc).2 ⟨e, he, hleader e he⟩
  have hperm : (freeColumns nc pivots ++ pivots.map leaderOf).Perm (List.range nc) := by
    refine (List.perm_ext_iff_of_nodup ((pairwise_freeColumns nc pivots).nodup.append hnodup hdisj)
      List.nodup_range).mpr fun c => ?_
    rw [List.mem_append, mem_freeColumns, List.mem_range, List.mem_map]
    constructor
    · rintro (⟨hc, -⟩ | ⟨e, he, rfl⟩)
      · exact hc
      · exact (hleader e he).lt (hp.lt e he)
    · intro hc
      by_cases h : ∃ e ∈ pivots, IsLeader e c
      · obtain ⟨e, he, hl⟩ := h
        exact .inr ⟨e, he, hl.leaderOf_eq⟩
      · exact .inl ⟨hc, h⟩
  simpa using hperm.length_eq

/-- The free columns of the pivot rows are those of every matrix with their row space. -/
theorem IsPivots.mem_freeColumns_iff {rows : List Nat} (h : rowSpace pivots = rowSpace rows) (c : Nat) :
    c ∈ freeColumns nc pivots ↔ IsFreeColumn rows nc c := by
  rw [mem_freeColumns, IsFreeColumn, ← h]
  refine and_congr_right fun _ => not_congr ⟨?_, ?_⟩
  · exact fun ⟨e, he, hl⟩ => ⟨e, mem_rowSpace_of_mem he, hl⟩
  · exact fun ⟨v, hv, hl⟩ => exists_isLeader_of_mem_rowSpace (hp.reduced.imp And.left) hp.ne_zero hv hl

/-- Among the free columns a kernel vector has a 1 in its own only (R112). -/
theorem IsPivots.testBit_kernelVector_free (f : Nat) {g : Nat} (hg : g ∈ freeColumns nc pivots) :
    (kernelVector pivots f).testBit g = true ↔ g = f := by
  rw [testBit_kernelVector hp.ne_zero, or_iff_left]
  rintro ⟨e, he, hl, -⟩
  exact (mem_freeColumns.mp hg).2 ⟨e, he, hl⟩

theorem IsPivots.kernelVector_lt {f : Nat} (hf : f < nc) : kernelVector pivots f < 2 ^ nc := by
  refine Nat.lt_pow_two_of_testBit _ fun j hj => ?_
  rw [← Bool.not_eq_true, testBit_kernelVector hp.ne_zero]
  rintro (rfl | ⟨e, he, hl, -⟩)
  · omega
  · have := hl.lt (hp.lt e he)
    omega

/-- A pivot row with a 1 in the free column has two bits in common with its kernel vector, the others none. -/
theorem IsPivots.testBit_and_kernelVector {f e l : Nat} (he : e ∈ pivots) (hl : IsLeader e l) (j : Nat) :
    (e &&& kernelVector pivots f).testBit j = true ↔ e.testBit f = true ∧ (j = f ∨ j = l) := by
  rw [Nat.testBit_and, Bool.and_eq_true, testBit_kernelVector hp.ne_zero]
  constructor
  · rintro ⟨hj, rfl | ⟨e', he', hl', hf⟩⟩
    · exact ⟨hj, .inl rfl⟩
    · obtain rfl := hp.eq_of_isLeader he' he hl' hj
      exact ⟨hf, .inr (hl'.unique hl)⟩
  · rintro ⟨hf, rfl | rfl⟩
    · exact ⟨hf, .inl rfl⟩
    · exact ⟨hl.1, .inr ⟨e, he, hl, hf⟩⟩

/-- The vector of a free column is in the kernel (R112, R117). -/
theorem IsPivots.inKernel_kernelVector (hn : nc ≤ 64) {f : Nat} (hf : f ∈ freeColumns nc pivots) :
    InKernel pivots (kernelVector pivots f) := by
  refine inKernel_iff.mpr fun e he => ?_
  obtain ⟨hfn, hfree⟩ := mem_freeColumns.mp hf
  obtain ⟨l, hl⟩ := exists_isLeader (hp.ne_zero e he)
  have hln := hl.lt (hp.lt e he)
  have hfl : f ≠ l := fun h => hfree ⟨e, he, h ▸ hl⟩
  have hbit := hp.testBit_and_kernelVector (f := f) he hl
  rw [bitCount_cast]
  by_cases hef : e.testBit f = true
  · have hsplit : ∀ j, (if (e &&& kernelVector pivots f).testBit j then (1 : ZMod 2) else 0) =
        (if j = f then 1 else 0) + if j = l then 1 else 0 := fun j => by
      rw [if_congr ((hbit j).trans (and_iff_right hef)) rfl rfl]
      by_cases hjf : j = f
      · simp [hjf, hfl]
      · simp [hjf]
    simp only [hsplit, Finset.sum_add_distrib, Finset.sum_ite_eq', Finset.mem_range]
    rw [if_pos (by omega), if_pos (by omega)]
    rfl
  · exact Finset.sum_eq_zero fun j _ => if_neg fun h => hef ((hbit j).mp h).1

end

/-! ## The nullspace -/

/-- A kernel vector that is 0 in every free column is 0: its top bit would be the leader of a pivot row. -/
theorem InKernel.eq_zero {nc v : Nat} {pivots : List Nat} (hk : InKernel pivots v) (hn : nc ≤ 64) (hv : v < 2 ^ nc)
    (hfree : ∀ f ∈ freeColumns nc pivots, v.testBit f = false) : v = 0 := by
  by_contra h0
  have htop : v.log2 ∉ freeColumns nc pivots := fun h => by
    simpa [Nat.testBit_log2 h0] using hfree _ h
  have : ∃ e ∈ pivots, IsLeader e v.log2 := by
    by_contra h
    exact htop (mem_freeColumns.mpr ⟨(Nat.log2_lt h0).mpr hv, h⟩)
  obtain ⟨e, he, hl⟩ := this
  exact hk.not_isLeader_log2 h0 (hv.trans_le (Nat.pow_le_pow_right (by omega) hn)) he hl

theorem inKernel_zero (rows : List Nat) : InKernel rows 0 := fun w _ => by simp [bitCount]

theorem InKernel.xor {rows : List Nat} {u v : Nat} (hu : InKernel rows u) (hv : InKernel rows v) :
    InKernel rows (u ^^^ v) := by
  rw [inKernel_iff] at hu hv ⊢
  intro w hw
  rw [Nat.and_comm, bitCount_xor_and, Nat.and_comm u, Nat.and_comm v, hu w hw, hv w hw, add_zero]

/-- The kernel of a matrix depends on its row space only. -/
theorem InKernel.of_rowSpace {rows rows' : List Nat} {v : Nat} (h : InKernel rows v)
    (he : rowSpace rows = rowSpace rows') : InKernel rows' v := by
  rw [inKernel_iff] at h ⊢
  have hspan := rowSpace_forall (P := fun w => (bitCount (w &&& v) : ZMod 2) = 0) (by simp [bitCount])
    (fun a b ha hb => by rw [bitCount_xor_and, ha, hb, add_zero]) h
  exact fun w hw => hspan w (he ▸ mem_rowSpace_of_mem hw)

/-- Vectors that have a 1 in a column of their own and a 0 in each other's columns: a sum of them has in these columns
any bits asked for. -/
theorem exists_mem_rowSpace_agree (row : Nat → Nat) {l : List Nat} (hl : l.Nodup)
    (hrow : ∀ f, ∀ g ∈ l, (row f).testBit g = true ↔ g = f) (v : Nat) :
    ∃ w ∈ rowSpace (l.map row), ∀ f ∈ l, w.testBit f = v.testBit f := by
  induction l with
  | nil => exact ⟨0, zero_mem_rowSpace _, by simp⟩
  | cons f l ih =>
    rw [List.nodup_cons] at hl
    obtain ⟨w, hw, hag⟩ := ih hl.2 fun g k hk => hrow g k (List.mem_cons_of_mem _ hk)
    have hw' : w ∈ rowSpace ((f :: l).map row) := rowSpace_mono (List.subset_cons_self _ _) hw
    have hself : (row f).testBit f = true := (hrow f f (by simp)).mpr rfl
    by_cases hf : w.testBit f = v.testBit f
    · exact ⟨w, hw', List.forall_mem_cons.mpr ⟨hf, hag⟩⟩
    · refine ⟨w ^^^ row f, xor_mem_rowSpace hw' (mem_rowSpace_of_mem (by simp)),
        List.forall_mem_cons.mpr ⟨?_, fun g hg => ?_⟩⟩
      · rw [Nat.testBit_xor, hself, Bool.xor_true]
        exact Bool.not_eq.mpr hf
      · have hgf : (row f).testBit g = false := Bool.eq_false_iff.mpr fun h =>
          hl.1 ((hrow f g (List.mem_cons_of_mem _ hg)).mp h ▸ hg)
        rw [Nat.testBit_xor, hgf, Bool.xor_false, hag g hg]

section
variable {nc : Nat} {pivots : List Nat} (hp : IsPivots nc pivots)
include hp

theorem IsPivots.kernelVectors_lt : ∀ v ∈ kernelVectors nc pivots, v < 2 ^ nc :=
  List.forall_mem_map.mpr fun _ hf => hp.kernelVector_lt (mem_freeColumns.mp hf).1

theorem IsPivots.inKernel_kernelVectors (hn : nc ≤ 64) : ∀ v ∈ kernelVectors nc pivots, InKernel pivots v :=
  List.forall_mem_map.mpr fun _ hf => hp.inKernel_kernelVector hn hf

/-- The kernel vectors span exactly the nullspace (R117). -/
theorem IsPivots.mem_rowSpace_kernelVectors (hn : nc ≤ 64) (v : Nat) :
    v ∈ rowSpace (kernelVectors nc pivots) ↔ v < 2 ^ nc ∧ InKernel pivots v := by
  have hspan : ∀ w ∈ rowSpace (kernelVectors nc pivots), w < 2 ^ nc ∧ InKernel pivots w :=
    rowSpace_forall ⟨Nat.two_pow_pos nc, inKernel_zero _⟩
      (fun a b ha hb => ⟨Nat.xor_lt_two_pow ha.1 hb.1, ha.2.xor hb.2⟩)
      fun w hw => ⟨hp.kernelVectors_lt w hw, hp.inKernel_kernelVectors hn w hw⟩
  refine ⟨hspan v, fun ⟨hv, hk⟩ => ?_⟩
  obtain ⟨w, hw, hag⟩ := exists_mem_rowSpace_agree (kernelVector pivots) (pairwise_freeColumns nc pivots).nodup
    (fun f _ => hp.testBit_kernelVector_free f) v
  obtain ⟨hwlt, hwk⟩ := hspan w hw
  have hzero : v ^^^ w = 0 := (hk.xor hwk).eq_zero hn (Nat.xor_lt_two_pow hv hwlt) fun f hf => by
    rw [Nat.testBit_xor, hag f hf, Bool.xor_self]
  rwa [Nat.xor_eq_zero_iff.mp hzero]

/-- The kernel vectors are linearly independent (R112). -/
theorem IsPivots.ncard_rowSpace_kernelVectors :
    (rowSpace (kernelVectors nc pivots)).ncard = 2 ^ (freeColumns nc pivots).length := by
  refine ncard_rowSpace_map (kernelVector pivots) id (fun f hf => (hp.testBit_kernelVector_free f hf).mpr rfl) ?_
  refine (pairwise_freeColumns nc pivots).imp_of_mem fun {f g} hf _ hfg => ?_
  rw [← Bool.not_eq_true, id, hp.testBit_kernelVector_free g hf]
  exact hfg.ne

end

/-! ## MKER -/

/-- The internal check F_KERNEL never fails (R112). -/
theorem kernelBasis_eq {nc : Nat} {rows : List Nat} (h : ∀ r ∈ rows, r < 2 ^ nc) :
    kernelBasis nc rows = .ok (kernelVectors nc (pivotRows (rref nc rows))) :=
  if_neg (not_not_intro (isPivots_pivotRows h).length_freeColumns)

/-- MKER stores the kernel vectors of the pivot rows, and leaves the other cells (R116). -/
theorem exists_exec_mker {s : State} (hi : Inv s) (hv : s.matv = true) {vectors : List Nat}
    (hvec : vectors = kernelVectors s.ncols (pivotRows (rref s.ncols s.matrix))) :
    ∃ m, exec .mker s =
        .next (({ s with kdim := dimWord vectors.length s.ncols, ker := m }.setKerv true).setCode 0) ∧
      (∀ k, (hk : k < vectors.length) → (bankRead m k).toNat = vectors[k]) ∧
      ∀ k, vectors.length ≤ k → bankRead m k = bankRead s.ker k := by
  have hb : kernelBasis s.ncols s.matrix = .ok vectors := hvec ▸ kernelBasis_eq (matrix_lt s)
  have hn : s.ncols ≤ 64 := hi.mdim.2.2
  obtain ⟨m, hm, hr, hrest⟩ := exists_memWriteAll_rows (s := { s with kdim := dimWord vectors.length s.ncols })
    (b := .ker) ((length_kernelBasis hb).trans hn) hi.memory.2.1 hn
    (hvec ▸ (isPivots_pivotRows (matrix_lt s)).kernelVectors_lt)
  refine ⟨m, ?_, hr, hrest⟩
  simp only [exec, execMker, hv, needCtx_true, hi.matRows_eq_matrix, onCell_ok, hb, onFatal_ok, hm, finish_ok]
  rfl

/-- Settles O30: the vectors stored are those of the free columns of the pivot rows. -/
theorem kernelBasisFound : Obligations.KernelBasisFound := by
  intro s hi hv
  obtain ⟨pivots, hpivots⟩ : ∃ pivots, pivots = pivotRows (rref s.ncols s.matrix) := ⟨_, rfl⟩
  have hp : IsPivots s.ncols pivots := hpivots ▸ isPivots_pivotRows (matrix_lt s)
  have hspan : rowSpace pivots = rowSpace s.matrix := hpivots ▸ rowSpace_pivotRows_rref (matrix_lt s)
  have hcols := hp.length_freeColumns
  have hfree : (freeColumns s.ncols pivots).length = s.ncols - pivots.length := by omega
  have hlen := (length_kernelVectors s.ncols pivots).trans hfree
  obtain ⟨m, hexec, hr, hrest⟩ := exists_exec_mker hi hv (hpivots ▸ rfl : kernelVectors s.ncols pivots = _)
  rw [hlen] at hexec hrest
  have hbasis : ((List.range (s.ncols - pivots.length)).map fun k => (bankRead m k).toNat) =
      kernelVectors s.ncols pivots := by
    refine List.ext_getElem (by simpa using hlen.symm) fun k h1 h2 => ?_
    rw [List.getElem_map, List.getElem_range, hr k h2]
  refine ⟨m, pivots.length, ?_, by omega, hexec, ⟨fun v => ?_, ?_⟩, ?_, hrest⟩
  · rw [← hspan, hp.ncard_rowSpace]
  · rw [hbasis, hp.mem_rowSpace_kernelVectors hi.mdim.2.2]
    exact and_congr_right fun _ => ⟨fun h => h.of_rowSpace hspan, fun h => h.of_rowSpace hspan.symm⟩
  · rw [hbasis, hp.ncard_rowSpace_kernelVectors, hfree]
  · refine ⟨freeColumns s.ncols pivots, pairwise_freeColumns _ _, hp.mem_freeColumns_iff hspan, hfree,
      fun t u ht hu => ?_⟩
    have hcell : (bankRead m t).toNat = kernelVector pivots (freeColumns s.ncols pivots)[t] := by
      rw [hr t (by rwa [length_kernelVectors])]
      exact List.getElem_map _
    rw [hcell, hp.testBit_kernelVector_free _ (List.getElem_mem hu)]
    exact (pairwise_freeColumns _ _).nodup.getElem_inj_iff

end Sys2Proof.Machine
end

section
/-! PROOFS. Degree, sum, derivative, product, division, power and square root of words as polynomials over GF(2)
(41_f2poly.md R130 to R133, R136 to R138, R140 to R145, R148, R149). -/

namespace Sys2Proof.Machine

open Polynomial

/-! ## Words of polynomials -/

theorem polyOf_ne_zero {a : Nat} (h : a ≠ 0) : polyOf a ≠ 0 := fun e => h (polyOf_eq_zero.mp e)

/-- A polynomial fits a word exactly where its degree is at most 63. -/
theorem lt_two_pow_64_iff {a : Nat} : a < 2 ^ 64 ↔ deg a ≤ 63 :=
  ⟨fun h => Nat.le_of_lt_succ (deg_lt_of_lt_two_pow (by omega) h), fun h => lt_two_pow_of_deg_lt (by omega)⟩

theorem ofNat_xor_toNat (v w : Word) : BitVec.ofNat 64 (v.toNat ^^^ w.toNat) = v ^^^ w := by
  rw [← BitVec.toNat_xor, BitVec.ofNat_toNat, BitVec.setWidth_eq]

/-! ## PDEG, PADD, PSUB, PDERIV -/

theorem execPdeg_eq (rd rs1 : Reg) (s : State) :
    exec (.pdeg rd rs1) s = .next ((s.setNat rd (deg (s.u64 rs1))).setCode 0) := rfl

theorem execPadd_eq (rd rs1 rs2 : Reg) (s : State) :
    exec (.padd rd rs1 rs2) s = .next ((s.setNat rd (s.u64 rs1 ^^^ s.u64 rs2)).setCode 0) := by
  rw [setNat_eq_set, State.u64, State.u64, ofNat_xor_toNat]
  rfl

theorem execPsub_eq (rd rs1 rs2 : Reg) (s : State) :
    exec (.psub rd rs1 rs2) s = .next ((s.setNat rd (s.u64 rs1 ^^^ s.u64 rs2)).setCode 0) :=
  execPadd_eq rd rs1 rs2 s

theorem execPderiv_eq (rd rs1 : Reg) (s : State) :
    exec (.pderiv rd rs1) s = .next ((s.setNat rd (pderiv (s.u64 rs1))).setCode 0) := rfl

theorem pderiv_le (a : Nat) : pderiv a ≤ a := (Nat.shiftRight_le _ _).trans Nat.and_le_left

/-- Settles O31: the degree, XOR as sum and as difference, and the odd coefficients as the derivative. -/
theorem polyBasics : Obligations.PolyBasics := by
  intro s rd rs1 rs2
  have hxor := Nat.xor_lt_two_pow (u64_lt s rs1) (u64_lt s rs2)
  have hsum := polyOf_xor (s.u64 rs1) (s.u64 rs2)
  refine ⟨?_, ?_, ?_, ?_⟩
  · rw [natDegree_polyOf]
    exact execPdeg_eq rd rs1 s
  · exact ⟨_, hxor, hsum, execPadd_eq rd rs1 rs2 s⟩
  · exact ⟨_, hxor, hsum.trans (sub_eq_add_mod_two _ _).symm, execPsub_eq rd rs1 rs2 s⟩
  · exact ⟨_, (pderiv_le _).trans_lt (u64_lt s rs1), polyOf_pderiv (u64_lt s rs1), execPderiv_eq rd rs1 s⟩

/-! ## PMUL -/

/-- The degree of a product, 0 where a factor is 0. -/
theorem deg_clmul (a b : Nat) : deg (clmul a b) = if a = 0 ∨ b = 0 then 0 else deg a + deg b := by
  rw [← natDegree_polyOf, polyOf_clmul]
  split
  next h => rcases h with rfl | rfl <;> simp
  next h =>
    obtain ⟨ha, hb⟩ := not_or.mp h
    rw [natDegree_mul (polyOf_ne_zero ha) (polyOf_ne_zero hb), natDegree_polyOf, natDegree_polyOf]

theorem execPmul_of_lt {rd rs1 rs2 : Reg} {s : State} (h : clmul (s.u64 rs1) (s.u64 rs2) < 2 ^ 64) :
    exec (.pmul rd rs1 rs2) s = .next ((s.setNat rd (clmul (s.u64 rs1) (s.u64 rs2))).setCode 0) := by
  simp only [exec, execPmul]
  rw [if_neg (not_le.mpr h), finish_ok]

theorem execPmul_of_le {rd rs1 rs2 : Reg} {s : State} (h : 2 ^ 64 ≤ clmul (s.u64 rs1) (s.u64 rs2)) :
    exec (.pmul rd rs1 rs2) s = .next (raise .overflow s) := by
  simp only [exec, execPmul]
  rw [if_pos h, finish_fails]

/-- Settles O32: the product fits a word exactly where its degree is at most 63. -/
theorem polyProduct : Obligations.PolyProduct := by
  intro s rd rs1 rs2
  dsimp only
  constructor
  · intro h
    have hlt : clmul (s.u64 rs1) (s.u64 rs2) < 2 ^ 64 := by
      rw [lt_two_pow_64_iff, deg_clmul]
      split <;> omega
    exact ⟨_, hlt, polyOf_clmul _ _, execPmul_of_lt hlt⟩
  · intro ha hb h
    refine execPmul_of_le (not_lt.mp fun hlt => ?_)
    rw [lt_two_pow_64_iff, deg_clmul, if_neg (not_or.mpr ⟨ha, hb⟩)] at hlt
    omega

/-! ## PQUOREM -/

theorem deg_pquorem_le (a : Nat) {b : Nat} (hb : b ≠ 0) : deg (pquorem a b).1 ≤ deg a := by
  rw [← natDegree_polyOf, ← natDegree_polyOf, (polyOf_pquorem a hb).1]
  exact natDegree_le_natDegree (degree_div_le _ _)

theorem execPquorem_of_zero {rd rd2 rs1 rs2 : Reg} {s : State} (h : s.u64 rs2 = 0) :
    exec (.pquorem rd rd2 rs1 rs2) s = .next (raise .divzero s) := by
  simp only [exec, execPquorem]
  rw [if_pos h, finish_fails]

theorem execPquorem_of_ne_zero {rd rd2 rs1 rs2 : Reg} {s : State} (h : s.u64 rs2 ≠ 0) :
    exec (.pquorem rd rd2 rs1 rs2) s = .next (((s.setNat rd (pquorem (s.u64 rs1) (s.u64 rs2)).1).setNat rd2
      (pquorem (s.u64 rs1) (s.u64 rs2)).2).setCode 0) := by
  simp only [exec, execPquorem]
  rw [if_neg h, finish_ok]

/-- Settles O33: a zero divisor fails, and the long division of R133 gives the quotient and the remainder. -/
theorem polyDivision : Obligations.PolyDivision := by
  intro s rd rd2 rs1 rs2
  refine ⟨execPquorem_of_zero, fun hb => ?_⟩
  obtain ⟨hdiv, hrem⟩ := pquorem_spec (s.u64 rs1) hb
  obtain ⟨hr64, hred⟩ := reduced_result (u64_lt s rs2) hrem
  have hq64 := lt_two_pow_64_of_deg_le (u64_lt s rs1) (deg_pquorem_le (s.u64 rs1) hb)
  exact ⟨_, hq64, _, hr64, hdiv.symm, hred, execPquorem_of_ne_zero hb⟩

/-! ## PPOW -/

/-- Square-and-multiply gives the power in every monoid whose product the loop computes (R138). -/
theorem map_powLoop {M : Type*} [CommMonoid M] {f : Nat → M} {mul : Nat → Nat → Nat}
    (hmul : ∀ a b, f (mul a b) = f a * f b) (n r b k : Nat) (hk : k ≤ n) :
    f (powLoop mul n r b k) = f r * f b ^ k := by
  induction n generalizing r b k with
  | zero =>
    obtain rfl : k = 0 := by omega
    rw [powLoop, pow_zero, mul_one]
  | succ n ih =>
    rw [powLoop]
    split
    next h => rw [h, pow_zero, mul_one]
    next h =>
      have hsquare : f (if k / 2 > 0 then mul b b else b) ^ (k / 2) = f b ^ (2 * (k / 2)) := by
        split
        next => rw [hmul, ← pow_two, pow_mul]
        next h0 => rw [Nat.eq_zero_of_not_pos h0, Nat.mul_zero, pow_zero]
      have hresult : f (if k % 2 = 1 then mul r b else r) = f r * f b ^ (k % 2) := by
        split
        next h1 => rw [hmul, h1, pow_one]
        next h1 => rw [Nat.mod_two_ne_one.mp h1, pow_zero, mul_one]
      rw [ih _ _ _ (by omega), hsquare, hresult, mul_assoc, ← pow_add, Nat.mod_add_div]

/-- ppow is the power in F2[x] (R138). -/
theorem polyOf_ppow (a e : Nat) : polyOf (ppow a e) = polyOf a ^ e := by
  rw [ppow, map_powLoop polyOf_clmul _ _ _ _ le_rfl, polyOf_one, one_mul]

theorem deg_ppow (a e : Nat) : deg (ppow a e) = e * deg a := by
  rw [← natDegree_polyOf, polyOf_ppow, natDegree_pow, natDegree_polyOf]

section
variable {rd rs1 rs2 : Reg} {s : State}

theorem execPpow_of_neg (h : s.s64 rs2 < 0) : exec (.ppow rd rs1 rs2) s = .next (raise .negexp s) := by
  simp only [exec, execPpow]
  rw [if_pos h, finish_fails]

theorem execPpow_of_zero (ha : s.u64 rs1 = 0) (he : s.s64 rs2 = 0) :
    exec (.ppow rd rs1 rs2) s = .next (raise .zerozero s) := by
  simp only [exec, execPpow]
  rw [if_neg (by omega), if_pos ⟨ha, he⟩, finish_fails]

theorem execPpow_of_big (he : 0 ≤ s.s64 rs2) (ha : 1 < s.u64 rs1)
    (h : 63 < (s.s64 rs2).toNat * deg (s.u64 rs1)) : exec (.ppow rd rs1 rs2) s = .next (raise .overflow s) := by
  simp only [exec, execPpow]
  rw [if_neg (by omega), if_neg (by omega), if_pos ⟨ha, h⟩, finish_fails]

theorem execPpow_of_small (he : 0 ≤ s.s64 rs2) (h0 : s.u64 rs1 ≠ 0 ∨ s.s64 rs2 ≠ 0)
    (h : s.u64 rs1 ≤ 1 ∨ (s.s64 rs2).toNat * deg (s.u64 rs1) ≤ 63) :
    exec (.ppow rd rs1 rs2) s = .next ((s.setNat rd (ppow (s.u64 rs1) (s.s64 rs2).toNat)).setCode 0) := by
  simp only [exec, execPpow]
  rw [if_neg (by omega), if_neg (by omega), if_neg (by omega), finish_ok]

end

theorem deg_of_le_one {a : Nat} (h : a ≤ 1) : deg a = 0 := by
  by_contra hd
  have := deg_pos_iff.mp (Nat.pos_of_ne_zero hd)
  omega

/-- Settles O34: the checks come in the order of R145, and the degree of a power is the exponent times the degree. -/
theorem polyPower : Obligations.PolyPower := by
  intro s rd rs1 rs2
  dsimp only
  have hcast : 0 ≤ s.s64 rs2 → s.s64 rs2 * (deg (s.u64 rs1) : Int) = ((s.s64 rs2).toNat * deg (s.u64 rs1) : Nat) :=
    fun he => by rw [Nat.cast_mul, Int.toNat_of_nonneg he]
  refine ⟨execPpow_of_neg, execPpow_of_zero, fun he ha h => ?_, fun he h0 h => ?_⟩
  · rw [hcast he] at h
    exact execPpow_of_big he ha (by exact_mod_cast h)
  · rw [hcast he] at h
    have hsmall : s.u64 rs1 ≤ 1 ∨ (s.s64 rs2).toNat * deg (s.u64 rs1) ≤ 63 := h.imp_right fun h => by exact_mod_cast h
    refine ⟨_, ?_, polyOf_ppow _ _, execPpow_of_small he h0 hsmall⟩
    rw [lt_two_pow_64_iff, deg_ppow]
    rcases hsmall with h1 | h1
    · rw [deg_of_le_one h1]
      omega
    · exact h1

/-! ## PSQRT -/

/-- The square of a polynomial has no odd coefficients. -/
theorem and_oddMask_of_sq {a r : Nat} (h : polyOf r ^ 2 = polyOf a) : a &&& oddMask = 0 := by
  apply Nat.eq_of_testBit_eq
  intro j
  rw [Nat.testBit_and, testBit_oddMask, Nat.zero_testBit]
  by_cases hj : j % 2 = 1
  · have hexp : polyOf a = expand (ZMod 2) 2 (polyOf r) := h.symm.trans (ZMod.expand_card _).symm
    have hcoeff := coeff_polyOf a j
    rw [hexp, coeff_expand (by omega), if_neg (by omega)] at hcoeff
    have : a.testBit j = false := by simpa using hcoeff.symm
    rw [this, Bool.false_and]
  · simp [hj]

/-- psqrt answers the root of a square, and nothing for a polynomial that is none (R137). -/
theorem psqrt_eq_some_iff {a r : Nat} (h : a < 2 ^ 64) : psqrt a = some r ↔ polyOf r ^ 2 = polyOf a := by
  rw [psqrt]
  split
  next ho => exact iff_of_false nofun fun hr => ho (and_oddMask_of_sq hr)
  next ho =>
    have hroot := polyOf_evenBits_sq h (testBit_odd_of_and_oddMask h (not_not.mp ho))
    rw [← hroot, Option.some_inj, ← frobenius_def, ← frobenius_def, (frobenius_inj _ 2).eq_iff,
      polyOf_injective.eq_iff, eq_comm]

theorem execPsqrt_of_some {rd rd2 rs1 : Reg} {s : State} {r : Nat} (h : psqrt (s.u64 rs1) = some r) :
    exec (.psqrt rd rd2 rs1) s = .next (((s.setNat rd r).setNat rd2 1).setCode 0) := by
  simp only [exec, execPsqrt, h]
  rfl

theorem execPsqrt_of_none {rd rd2 rs1 : Reg} {s : State} (h : psqrt (s.u64 rs1) = none) :
    exec (.psqrt rd rd2 rs1) s = .next (((s.setNat rd 0).setNat rd2 0).setCode 0) := by
  simp only [exec, execPsqrt, h]
  rfl

/-- Settles O36: the root is the one psqrt answers, and it answers none where there is no root. -/
theorem polySquareRoot : Obligations.PolySquareRoot := by
  intro s rd rd2 rs1
  have hroot := fun r => psqrt_eq_some_iff (r := r) (u64_lt s rs1)
  refine ⟨fun r hr => execPsqrt_of_some ((hroot r).mpr hr), fun hnone => execPsqrt_of_none ?_⟩
  exact Option.eq_none_iff_forall_ne_some.mpr fun r hr => hnone r ((hroot r).mp hr)

end Sys2Proof.Machine
end

section
/-! PROOFS. The greatest common divisor in F2[x] and the cofactors of the three-row loop (41_f2poly.md R134, R135, R146,
R147, R150). -/

namespace Sys2Proof.Machine

open Polynomial

/-! ## PGCD and PXGCD -/

/-- What bounds the first cofactor in the loop of R135: the rows (r0, s0) and (r1, s1) after the first round, for the
second operand `B`. -/
structure CofactorBound (B r0 s0 r1 s1 : (ZMod 2)[X]) : Prop where
  remainders : r1.degree < r0.degree
  cofactors : s0.degree < s1.degree
  product : (s1 * r0).degree = B.degree

/-- A round of the loop keeps the bound: the quotient is not constant, and its degree passes from the remainders to the
cofactors. -/
theorem CofactorBound.round {B r0 s0 r1 s1 : (ZMod 2)[X]} (h : CofactorBound B r0 s0 r1 s1) (hr : r1 ≠ 0) :
    CofactorBound B r1 s1 (r0 % r1) (s0 + r0 / r1 * s1) := by
  obtain ⟨hrem, hcof, hprod⟩ := h
  have hs : s1 ≠ 0 := ne_zero_of_degree_gt hcof
  have hquot : r1.degree + (r0 / r1).degree = r0.degree := degree_add_div hr hrem.le
  have hq : r0 / r1 ≠ 0 := fun e => ne_zero_of_degree_gt hrem (by simpa [e] using hquot.symm)
  have hlt : s1.degree < (r0 / r1 * s1).degree := by
    rw [← hquot, degree_eq_natDegree hr, degree_eq_natDegree hq] at hrem
    rw [degree_mul, degree_eq_natDegree hs, degree_eq_natDegree hq]
    norm_cast at hrem ⊢
    omega
  have hnext : (s0 + r0 / r1 * s1).degree = (r0 / r1 * s1).degree :=
    degree_add_eq_right_of_degree_lt (hcof.trans hlt)
  refine ⟨degree_mod_lt r0 hr, hnext ▸ hlt, ?_⟩
  rw [degree_mul, hnext, ← hprod, degree_mul, degree_mul, ← hquot]
  abel

theorem CofactorBound.lt {B r0 s0 r1 s1 : (ZMod 2)[X]} (h : CofactorBound B r0 s0 r1 s1) :
    s0.degree + r0.degree < B.degree := by
  rw [← h.product, degree_mul]
  exact WithBot.add_lt_add_right (degree_ne_bot.mpr (ne_zero_of_degree_gt h.remainders)) h.cofactors

/-- The first cofactor the loop ends with. -/
theorem pxgcdLoop_cofactor_lt {B : (ZMod 2)[X]} {n r0 s0 t0 r1 s1 t1 : Nat}
    (h : CofactorBound B (polyOf r0) (polyOf s0) (polyOf r1) (polyOf s1)) :
    let g := pxgcdLoop n r0 s0 t0 r1 s1 t1
    (polyOf g.2.1).degree + (polyOf g.1).degree < B.degree := by
  induction n generalizing r0 s0 t0 r1 s1 t1 with
  | zero => exact h.lt
  | succ n ih =>
    rw [pxgcdLoop]
    split
    · exact h.lt
    next hr =>
      obtain ⟨hquot, hrem⟩ := polyOf_pquorem r0 hr
      refine ih ?_
      rw [hrem, polyOf_xor, polyOf_clmul, hquot]
      exact h.round (polyOf_ne_zero hr)

theorem pxgcd_of_right_zero (a : Nat) : pxgcd a 0 = (a, 1, 0) := by
  rw [pxgcd, pxgcdLoop, if_pos rfl]

/-- The first round of the loop of R135. -/
theorem pxgcd_of_ne_zero (a : Nat) {b : Nat} (hb : b ≠ 0) :
    pxgcd a b = pxgcdLoop (deg b + 1) b 0 1 (pmodp a b) 1 (pquorem a b).1 := by
  have hclmul : ∀ q, clmul q 0 = 0 ∧ clmul q 1 = q := fun q =>
    ⟨polyOf_injective (by simp [polyOf_clmul]), polyOf_injective (by simp [polyOf_clmul])⟩
  rw [pxgcd, pxgcdLoop, if_neg hb]
  simp only [hclmul, Nat.xor_zero, Nat.zero_xor]
  rfl

theorem pmodp_eq_zero_iff {a b : Nat} (hb : b ≠ 0) : pmodp a b = 0 ↔ polyOf b ∣ polyOf a := by
  rw [← polyOf_eq_zero, polyOf_pmodp a hb, EuclideanDomain.mod_eq_zero]

/-- Where the second operand divides the first it is the result, as in the cases a = 0 and a = b. -/
theorem pxgcd_of_dvd {a b : Nat} (hb : b ≠ 0) (h : polyOf b ∣ polyOf a) : pxgcd a b = (b, 0, 1) := by
  rw [pxgcd_of_ne_zero a hb, (pmodp_eq_zero_iff hb).mpr h, pxgcdLoop, if_pos rfl]

theorem cofactorBound_first (a : Nat) {b : Nat} (hb : b ≠ 0) :
    CofactorBound (polyOf b) (polyOf b) (polyOf 0) (polyOf (pmodp a b)) (polyOf 1) where
  remainders := by
    rw [polyOf_pmodp a hb]
    exact degree_mod_lt _ (polyOf_ne_zero hb)
  cofactors := by rw [polyOf_zero, polyOf_one, degree_zero, degree_one]; exact WithBot.bot_lt_coe 0
  product := by rw [polyOf_one, one_mul]

/-- deg u + deg g < deg b (R135). -/
theorem pxgcd_first_cofactor_lt (a : Nat) {b : Nat} (hb : b ≠ 0) :
    (polyOf (pxgcd a b).2.1).degree + (polyOf (pxgcd a b).1).degree < (polyOf b).degree := by
  rw [pxgcd_of_ne_zero a hb]
  exact pxgcdLoop_cofactor_lt (cofactorBound_first a hb)

/-- The bound of the first cofactor bounds the second: v b = g - u a, and g has not the degree of both operands. -/
theorem degree_second_cofactor_lt {A B G U V : (ZMod 2)[X]} (hA : A ≠ 0) (hB : B ≠ 0) (hAB : A ≠ B) (hGA : G ∣ A)
    (hGB : G ∣ B) (hG : G = U * A + V * B) (hU : U.degree + G.degree < B.degree) : V.degree + G.degree < A.degree := by
  have heq : ∀ {P : (ZMod 2)[X]}, P ≠ 0 → G ∣ P → P.natDegree ≤ G.natDegree → P = G := fun hP hd =>
    eq_of_monic_of_dvd_of_natDegree_le (monic_of_ne_zero (ne_zero_of_dvd_ne_zero hP hd)) (monic_of_ne_zero hP) hd
  have hGA' := natDegree_le_of_dvd hGA hA
  have hGB' := natDegree_le_of_dvd hGB hB
  have hG0 := ne_zero_of_dvd_ne_zero hA hGA
  by_cases hV : V = 0
  · rw [hV, degree_zero, WithBot.bot_add]
    exact bot_lt_iff_ne_bot.mpr (degree_ne_bot.mpr hA)
  have hVB : (V * B).degree ≤ max G.degree (U * A).degree := by
    rw [show V * B = G - U * A by linear_combination -hG]
    exact degree_sub_le _ _
  rw [degree_mul, degree_eq_natDegree hV, degree_eq_natDegree hB, degree_eq_natDegree hG0] at hVB
  rw [degree_eq_natDegree hV, degree_eq_natDegree hG0, degree_eq_natDegree hA]
  rcases le_max_iff.mp hVB with h | h
  · norm_cast at h ⊢
    have hBG : B = G := heq hB hGB (by omega)
    have : ¬ A.natDegree ≤ G.natDegree := fun hle => hAB ((heq hA hGA hle).trans hBG.symm)
    omega
  · have hU0 : U ≠ 0 := by
      rintro rfl
      rw [zero_mul, degree_zero, le_bot_iff] at h
      exact WithBot.coe_ne_bot h
    rw [degree_mul, degree_eq_natDegree hU0, degree_eq_natDegree hA] at h
    rw [degree_eq_natDegree hU0, degree_eq_natDegree hG0, degree_eq_natDegree hB] at hU
    norm_cast at h hU ⊢
    omega

/-- deg v + deg g < deg a where the operands are neither 0 nor equal (R135). -/
theorem pxgcd_second_cofactor_lt {a b : Nat} (ha : a ≠ 0) (hb : b ≠ 0) (hab : a ≠ b) :
    (polyOf (pxgcd a b).2.2).degree + (polyOf (pxgcd a b).1).degree < (polyOf a).degree := by
  obtain ⟨hg, hcomb⟩ := pxgcd_spec a b
  obtain ⟨hga, hgb⟩ := (dvd_pgcd a b _).mp dvd_rfl
  rw [← hg] at hga hgb
  exact degree_second_cofactor_lt (polyOf_ne_zero ha) (polyOf_ne_zero hb) (polyOf_injective.ne hab) hga hgb hcomb
    (pxgcd_first_cofactor_lt a hb)

theorem lt_of_degree_le {a b n : Nat} (hb : b < 2 ^ n) (h : (polyOf a).degree ≤ (polyOf b).degree) : a < 2 ^ n := by
  obtain ⟨c, hc, e⟩ := exists_polyOf_eq (h.trans_lt (degree_polyOf_lt hb))
  exact polyOf_injective e ▸ hc

/-- The divisor and the cofactors of words are words. -/
theorem pxgcd_lt {a b : Nat} (ha : a < 2 ^ 64) (hb : b < 2 ^ 64) :
    (pxgcd a b).1 < 2 ^ 64 ∧ (pxgcd a b).2.1 < 2 ^ 64 ∧ (pxgcd a b).2.2 < 2 ^ 64 := by
  rcases eq_or_ne b 0 with rfl | hb0
  · rw [pxgcd_of_right_zero]
    exact ⟨ha, Nat.one_lt_two_pow (by omega), hb⟩
  by_cases hd : polyOf b ∣ polyOf a
  · rw [pxgcd_of_dvd hb0 hd]
    exact ⟨hb, Nat.two_pow_pos 64, Nat.one_lt_two_pow (by omega)⟩
  have ha0 : a ≠ 0 := fun e => hd (by simp [e])
  have hab : a ≠ b := fun e => hd (by rw [e])
  obtain ⟨hga, hgb⟩ := (dvd_pgcd a b _).mp dvd_rfl
  rw [← (pxgcd_spec a b).1] at hgb
  have hg0 : 0 ≤ (polyOf (pxgcd a b).1).degree :=
    zero_le_degree_iff.mpr (ne_zero_of_dvd_ne_zero (polyOf_ne_zero hb0) hgb)
  refine ⟨lt_of_degree_le hb (degree_le_of_dvd hgb (polyOf_ne_zero hb0)), lt_of_degree_le hb ?_, lt_of_degree_le ha ?_⟩
  · exact (le_add_of_nonneg_right hg0).trans (pxgcd_first_cofactor_lt a hb0).le
  · exact (le_add_of_nonneg_right hg0).trans (pxgcd_second_cofactor_lt ha0 hb0 hab).le

theorem execPgcd_eq (rd rs1 rs2 : Reg) (s : State) : exec (.pgcd rd rs1 rs2) s =
    .next ((s.setNat rd (pxgcd (s.u64 rs1) (s.u64 rs2)).1).setCode 0) := by
  rw [(pxgcd_spec _ _).1]
  rfl

theorem execPxgcd_eq (rd rd2 rd3 rs1 rs2 : Reg) (s : State) : exec (.pxgcd rd rd2 rd3 rs1 rs2) s =
    .next ((((s.setNat rd (pxgcd (s.u64 rs1) (s.u64 rs2)).1).setNat rd2 (pxgcd (s.u64 rs1) (s.u64 rs2)).2.1).setNat rd3
      (pxgcd (s.u64 rs1) (s.u64 rs2)).2.2).setCode 0) := rfl

/-- Settles O35: the rows of the loop of R135 are combinations of the operands, and their cofactors are bounded. -/
theorem polyGcds : Obligations.PolyGcds := by
  intro s rd rd2 rd3 rs1 rs2
  obtain ⟨hg64, hu64, hv64⟩ := pxgcd_lt (u64_lt s rs1) (u64_lt s rs2)
  obtain ⟨hg, hcomb⟩ := pxgcd_spec (s.u64 rs1) (s.u64 rs2)
  have hdvd := dvd_pgcd (s.u64 rs1) (s.u64 rs2)
  rw [← hg] at hdvd
  obtain ⟨hga, hgb⟩ := (hdvd _).mp dvd_rfl
  refine ⟨_, hg64, _, hu64, _, hv64, hga, hgb, fun d ha hb => (hdvd d).mpr ⟨ha, hb⟩, hcomb, fun hb => ?_, fun hb h => ?_,
    fun ha hb hab => ⟨pxgcd_first_cofactor_lt _ hb, pxgcd_second_cofactor_lt ha hb hab⟩, execPgcd_eq rd rs1 rs2 s,
    execPxgcd_eq rd rd2 rd3 rs1 rs2 s⟩
  · rw [hb, pxgcd_of_right_zero]
    exact ⟨rfl, rfl⟩
  · have hd : polyOf (s.u64 rs2) ∣ polyOf (s.u64 rs1) := by
      rcases h with h | h <;> simp [h]
    rw [pxgcd_of_dvd hb hd]
    exact ⟨rfl, rfl⟩

end Sys2Proof.Machine
end

section
/-! PROOFS. Factorisation over GF(2) ends in no fatal condition, and the shallow mode decides irreducibility
(42_f2polyfactor.md R161 to R165; 60_exceptions.md R289). -/

namespace Sys2Proof.Machine

open Polynomial

/-! ## Idempotents modulo f -/

theorem ne_zero_of_deg_pos {f : Nat} (hf : 1 ≤ deg f) : f ≠ 0 := by
  have := deg_pos_iff.mp hf
  omega

/-- A reduced residue with h^2 = h modulo f (R161). -/
structure IsIdempotent (f h : Nat) : Prop where
  lt : h < 2 ^ deg f
  dvd : polyOf f ∣ polyOf h ^ 2 + polyOf h

/-- The kernel of the Berlekamp matrix is the idempotents (R161). -/
theorem inKernel_bkmat_iff {f h : Nat} (hf : 1 ≤ deg f) (h64 : deg f ≤ 64) :
    h < 2 ^ deg f ∧ InKernel (bkmat f) h ↔ IsIdempotent f h := by
  refine ⟨fun ⟨hlt, hk⟩ => ⟨hlt, ?_⟩, fun hi => ⟨hi.lt, inKernel_bkmat hf h64 hi.lt hi.dvd⟩⟩
  have hf0 := ne_zero_of_deg_pos hf
  rw [← EuclideanDomain.mod_eq_zero]
  ext r
  rw [coeff_zero]
  by_cases hr : r < deg f
  · have hlen : r < (bkmat f).length := by simpa [bkmat] using hr
    rw [← bitCount_bkmat hf h64 hr hlt, List.getD_eq_getElem _ _ hlen]
    exact inKernel_iff.mp hk _ (List.getElem_mem hlen)
  · refine coeff_eq_zero_of_degree_lt ((degree_mod_lt _ (polyOf_ne_zero hf0)).trans_le ?_)
    rw [degree_polyOf hf0]
    exact_mod_cast not_lt.mp hr

theorem isIdempotent_one {f : Nat} (hf : 1 ≤ deg f) : IsIdempotent f 1 :=
  ⟨Nat.one_lt_two_pow (by omega), ⟨0, by rw [polyOf_one]; linear_combination two_eq_zero⟩⟩

/-- A reduced residue that f divides is 0. -/
theorem eq_zero_of_dvd {f a : Nat} (hf : f ≠ 0) (ha : a < 2 ^ deg f) (hd : polyOf f ∣ polyOf a) : a = 0 := by
  rw [← polyOf_eq_zero, ← polyOf_mod_of_lt hf ha]
  exact EuclideanDomain.mod_eq_zero.mpr hd

section
variable {f h : Nat} (hf : 1 ≤ deg f) (hi : IsIdempotent f h)
include hf hi

theorem IsIdempotent.xor_one : IsIdempotent f (h ^^^ 1) := by
  refine ⟨Nat.xor_lt_two_pow hi.lt (isIdempotent_one hf).lt, ?_⟩
  obtain ⟨q, hq⟩ := hi.dvd
  rw [polyOf_xor, polyOf_one]
  exact ⟨q, by linear_combination hq + (polyOf h + 1) * two_eq_zero⟩

/-- The check of R162 holds: F_IDEMP is not reached. -/
theorem IsIdempotent.pmulmod_self : pmulmod f h h = h := by
  have hf0 := ne_zero_of_deg_pos hf
  obtain ⟨q, hq⟩ := hi.dvd
  apply polyOf_injective
  rw [pmulmod, polyOf_pmodp _ hf0, polyOf_clmul, ← polyOf_mod_of_lt hf0 hi.lt]
  refine mod_eq_of_dvd_sub ⟨q, ?_⟩
  rw [polyOf_mod_of_lt hf0 hi.lt]
  linear_combination hq - polyOf h * two_eq_zero

/-- An idempotent that is coprime to f is 1. -/
theorem IsIdempotent.eq_one_of_pgcd (hg : pgcd f h = 1) : h = 1 := by
  have hf0 := ne_zero_of_deg_pos hf
  have hprod : polyOf f ∣ polyOf h * polyOf (h ^^^ 1) := by
    obtain ⟨q, hq⟩ := hi.dvd
    rw [polyOf_xor, polyOf_one]
    exact ⟨q, by linear_combination hq⟩
  have hdvd := ((pgcd_eq_one_iff _ _).mp hg).dvd_of_dvd_mul_left hprod
  exact Nat.xor_eq_zero_iff.mp (eq_zero_of_dvd hf0 (hi.xor_one hf).lt hdvd)

/-- The idempotents 0 and 1 split nothing and are passed over (R162). -/
theorem splitBy_cons_of_lt_two (h2 : h < 2) (factor : Nat → Except FatalCode FacList) (shallow : Bool)
    (ks : List Nat) : splitBy factor f shallow (h :: ks) = splitBy factor f shallow ks := by
  rcases (by omega : h = 0 ∨ h = 1) with rfl | rfl
  · rw [splitBy, if_pos rfl]
  · have h1 := hi.pmulmod_self hf
    have h0 := (hi.xor_one hf).pmulmod_self hf
    have hg : pgcd f 1 = 1 := (pgcd_eq_one_iff f 1).mpr (by rw [polyOf_one]; exact isCoprime_one_right)
    simp only [splitBy, h1, h0, hg, one_ne_zero, ne_eq, not_true, or_self, true_or, if_true, if_false]

/-- Every other idempotent splits f into two proper factors (R162). -/
theorem splitBy_cons_of_two_le (h2 : 2 ≤ h) (factor : Nat → Except FatalCode FacList) (ks : List Nat) :
    ∃ f1 f2, polyOf f = polyOf f1 * polyOf f2 ∧ f1 ≠ 1 ∧ f2 ≠ 1 ∧
      splitBy factor f true (h :: ks) = .ok (facInsert (facInsert [] f1 1) f2 1) ∧
      ∀ l1 l2, factor f1 = .ok l1 → factor f2 = .ok l2 → splitBy factor f false (h :: ks) = .ok (facMerge l1 l2) := by
  have hf0 := ne_zero_of_deg_pos hf
  have hh0 : h ≠ 0 := by omega
  have hi1 := hi.xor_one hf
  have hg1 : pgcd f h ≠ 1 := fun hg => by
    have := hi.eq_one_of_pgcd hf hg
    omega
  have hg2 : pgcd f (h ^^^ 1) ≠ 1 := fun hg => by
    have := congrArg (· ^^^ 1) (hi1.eq_one_of_pgcd hf hg)
    simp only [Nat.xor_xor_cancel_right, Nat.xor_self] at this
    omega
  have hmul : polyOf f = polyOf (pgcd f h) * polyOf (pgcd f (h ^^^ 1)) := polyOf_eq_mul_pgcd hf0 <| by
    obtain ⟨q, hq⟩ := hi.dvd
    exact ⟨q, by linear_combination hq⟩
  refine ⟨_, _, hmul, hg1, hg2, ?_, fun l1 l2 e1 e2 => ?_⟩
  · simp [splitBy, hh0, hi.pmulmod_self hf, hi1.pmulmod_self hf, hg1, hg2]
  · simp [splitBy, hh0, hi.pmulmod_self hf, hi1.pmulmod_self hf, hg1, hg2, e1, e2]

end

/-- The search of R162 over idempotents finds one that splits, where there is one. -/
theorem splitBy_eq {f : Nat} (hf : 1 ≤ deg f) (factor : Nat → Except FatalCode FacList) {ks : List Nat}
    (hks : ∀ h ∈ ks, IsIdempotent f h) (hex : ∃ h ∈ ks, 2 ≤ h) :
    ∃ f1 f2, polyOf f = polyOf f1 * polyOf f2 ∧ f1 ≠ 1 ∧ f2 ≠ 1 ∧
      splitBy factor f true ks = .ok (facInsert (facInsert [] f1 1) f2 1) ∧
      ∀ l1 l2, factor f1 = .ok l1 → factor f2 = .ok l2 → splitBy factor f false ks = .ok (facMerge l1 l2) := by
  induction ks with
  | nil => simp at hex
  | cons h ks ih =>
    rw [List.forall_mem_cons] at hks
    by_cases h2 : 2 ≤ h
    · exact splitBy_cons_of_two_le hf hks.1 h2 factor ks
    · have hskip := splitBy_cons_of_lt_two hf hks.1 (not_le.mp h2) factor
      rw [hskip, hskip]
      exact ih hks.2 (by simpa [h2] using hex)

/-! ## Berlekamp's algorithm -/

/-- Rank and kernel: where the kernel has more than one dimension, its basis has a vector other than 0 and 1. -/
theorem exists_kernelVector_two_le {f : Nat} (hf : 1 ≤ deg f) (h64 : deg f ≤ 64)
    (hr : deg f - rankof (deg f) (bkmat f) ≠ 1) :
    ∃ ks, kernelBasis (deg f) (bkmat f) = .ok ks ∧ (∀ h ∈ ks, IsIdempotent f h) ∧ ∃ h ∈ ks, 2 ≤ h := by
  have hp := isPivots_pivotRows (bkmat_lt f)
  have hspan := rowSpace_pivotRows_rref (bkmat_lt f)
  have hmem : ∀ v, v ∈ rowSpace (kernelVectors (deg f) (pivotRows (rref (deg f) (bkmat f)))) ↔ IsIdempotent f v := by
    intro v
    rw [hp.mem_rowSpace_kernelVectors h64, ← inKernel_bkmat_iff hf h64]
    exact and_congr_right fun _ => ⟨fun h => h.of_rowSpace hspan, fun h => h.of_rowSpace hspan.symm⟩
  refine ⟨_, kernelBasis_eq (bkmat_lt f), fun h hh => (hmem h).mp (mem_rowSpace_of_mem hh), ?_⟩
  by_contra hsmall
  push Not at hsmall
  have hpair : rowSpace (kernelVectors (deg f) (pivotRows (rref (deg f) (bkmat f)))) = {0, 1} := by
    refine Set.Subset.antisymm (rowSpace_forall (P := (· ∈ ({0, 1} : Set Nat))) (by simp) ?_ fun h hh => ?_) ?_
    · rintro a b (rfl | rfl) (rfl | rfl) <;> simp
    · have := hsmall h hh
      simp only [Set.mem_insert_iff, Set.mem_singleton_iff]
      omega
    · rintro v (rfl | rfl)
      · exact zero_mem_rowSpace _
      · exact (hmem 1).mpr (isIdempotent_one hf)
  have hcard := hp.ncard_rowSpace_kernelVectors
  rw [hpair, Set.ncard_pair zero_ne_one] at hcard
  have hfree : (freeColumns (deg f) (pivotRows (rref (deg f) (bkmat f)))).length = 1 :=
    (Nat.pow_right_injective le_rfl (by simpa using hcard)).symm
  have := hp.length_freeColumns
  rw [rankof] at hr
  omega

/-- Everything Berlekamp's algorithm can do with a square-free polynomial (R162): it is irreducible and is its own factor
list, or it is split into two proper factors. -/
theorem berlekamp_cases {f : Nat} (hf : 1 ≤ deg f) (h64 : deg f < 64) (hsep : (polyOf f).Separable)
    (factor : Nat → Except FatalCode FacList) :
    (Irreducible (polyOf f) ∧ ∀ shallow, berlekamp factor f shallow = .ok [(f, 1)]) ∨
    ∃ f1 f2, polyOf f = polyOf f1 * polyOf f2 ∧ f1 ≠ 1 ∧ f2 ≠ 1 ∧
      berlekamp factor f true = .ok (facInsert (facInsert [] f1 1) f2 1) ∧
      ∀ l1 l2, factor f1 = .ok l1 → factor f2 = .ok l2 → berlekamp factor f false = .ok (facMerge l1 l2) := by
  have hf0 := ne_zero_of_deg_pos hf
  by_cases h2 : deg f < 2
  · have hdeg : deg f = 1 := by omega
    refine .inl ⟨irreducible_of_degree_eq_one ?_, fun shallow => if_pos h2⟩
    rw [degree_polyOf hf0, hdeg]
    rfl
  · by_cases hr : deg f - rankof (deg f) (bkmat f) = 1
    · refine .inl ⟨irreducible_of_rankof (by omega) h64.le hsep hr, fun shallow => ?_⟩
      simp only [berlekamp, if_neg h2, if_pos hr]
    · obtain ⟨ks, hk, hks, hex⟩ := exists_kernelVector_two_le hf h64.le hr
      simp only [berlekamp, if_neg h2, if_neg hr, hk]
      exact .inr (splitBy_eq hf factor hks hex)

/-! ## The recursion of preBerlekamp -/

/-- Two factors other than 1 of a non-constant polynomial are not constant either, and of lower degree. -/
theorem deg_of_proper {f g k : Nat} (hf : f ≠ 0) (h : polyOf f = polyOf g * polyOf k) (hg : g ≠ 1) (hk : k ≠ 1) :
    1 ≤ deg g ∧ 1 ≤ deg k ∧ deg g < deg f ∧ deg k < deg f := by
  obtain ⟨hg0, hk0, hdeg⟩ := deg_of_mul hf h
  have := deg_pos hg0 hg
  have := deg_pos hk0 hk
  omega

theorem not_isUnit_of_deg_pos {g : Nat} (hg : 1 ≤ deg g) : ¬ IsUnit (polyOf g) := fun hu => by
  have := natDegree_eq_zero_of_isUnit hu
  rw [natDegree_polyOf] at this
  omega

/-- A product of two factors other than 1 is not irreducible. -/
theorem not_irreducible_of_proper {f g k : Nat} (hf : f ≠ 0) (h : polyOf f = polyOf g * polyOf k) (hg : g ≠ 1)
    (hk : k ≠ 1) : ¬ Irreducible (polyOf f) := fun hirr => by
  obtain ⟨hg, hk, -⟩ := deg_of_proper hf h hg hk
  exact (hirr.isUnit_or_isUnit h).elim (not_isUnit_of_deg_pos hg) (not_isUnit_of_deg_pos hk)

/-- Everything preBerlekamp can do with a non-constant word (R163): it hands a square-free polynomial to Berlekamp's
algorithm, takes the root of a square, or splits off the greatest common divisor with the derivative. -/
theorem preBerlekamp_cases {f : Nat} (hf : 1 ≤ deg f) (h64 : f < 2 ^ 64) (n : Nat) :
    ((polyOf f).Separable ∧
      ∀ shallow, preBerlekamp (n + 1) shallow f = berlekamp (preBerlekamp n false) f shallow) ∨
    (∃ r, polyOf f = polyOf r * polyOf r ∧ r ≠ 1 ∧
      ∀ shallow l, preBerlekamp n shallow r = .ok l → preBerlekamp (n + 1) shallow f = .ok (facScale l 2)) ∨
    ∃ g k, polyOf f = polyOf g * polyOf k ∧ g ≠ 1 ∧ k ≠ 1 ∧
      ∀ shallow l1 l2, preBerlekamp n shallow g = .ok l1 → preBerlekamp n shallow k = .ok l2 →
        preBerlekamp (n + 1) shallow f = .ok (facMerge l1 l2) := by
  have hf0 := ne_zero_of_deg_pos hf
  obtain ⟨hgf, hgd⟩ := (dvd_pgcd f (pderiv f) _).mp dvd_rfl
  have hg0 : pgcd f (pderiv f) ≠ 0 := fun e => by
    rw [e, polyOf_zero, zero_dvd_iff, polyOf_eq_zero] at hgf
    exact hf0 hgf
  by_cases hg1 : pgcd f (pderiv f) = 1
  · refine .inl ⟨?_, fun shallow => by rw [preBerlekamp]; simp only [if_neg hg0, if_pos hg1]⟩
    rw [separable_def, ← polyOf_pderiv h64]
    exact (pgcd_eq_one_iff _ _).mp hg1
  by_cases hd : pderiv f = 0
  · have hsq := (polyOf_psqrt_sq h64 hd).symm.trans (pow_two _)
    refine .inr (.inl ⟨_, hsq, fun e => ?_, fun shallow l hl => ?_⟩)
    · have := (deg_of_mul hf0 hsq).2.2
      rw [e, deg_one] at this
      omega
    · rw [preBerlekamp]
      simp only [if_neg hg0, if_neg hg1, if_pos hd, hl]
  · have hmul : polyOf f = polyOf (pgcd f (pderiv f)) * polyOf (pquorem f (pgcd f (pderiv f))).1 := by
      rw [(polyOf_pquorem f hg0).1, EuclideanDomain.mul_div_cancel' (polyOf_ne_zero hg0) hgf]
    have hlt : deg (pgcd f (pderiv f)) < deg f := by
      have h1 := natDegree_le_of_dvd hgd (polyOf_ne_zero hd)
      have h2 := natDegree_derivative_lt (p := polyOf f) (by rw [natDegree_polyOf]; omega)
      rw [polyOf_pderiv h64] at h1
      rw [natDegree_polyOf] at h1 h2
      omega
    refine .inr (.inr ⟨_, _, hmul, hg1, fun e => ?_, fun shallow l1 l2 h1 h2 => ?_⟩)
    · have := (deg_of_mul hf0 hmul).2.2
      rw [e, deg_one] at this
      omega
    · rw [preBerlekamp]
      simp only [if_neg hg0, if_neg hg1, if_neg hd, h1, h2]

/-- The full mode answers a factor list for every non-constant word: no fatal condition (R289). -/
theorem exists_preBerlekamp_full {n f : Nat} (hf : 1 ≤ deg f) (hn : deg f < n) (h64 : f < 2 ^ 64) :
    ∃ l, preBerlekamp n false f = .ok l := by
  induction n generalizing f with
  | zero => omega
  | succ n ih =>
    have hf0 := ne_zero_of_deg_pos hf
    have hd64 : deg f < 64 := deg_lt_of_lt_two_pow (by omega) h64
    have hfac : ∀ g, 1 ≤ deg g → deg g < deg f → ∃ l, preBerlekamp n false g = .ok l :=
      fun g hg hlt => ih hg (by omega) (lt_two_pow_64_of_deg_le h64 hlt.le)
    rcases preBerlekamp_cases hf h64 n with ⟨hsep, hb⟩ | ⟨r, hmul, hr, hb⟩ | ⟨g, k, hmul, hg, hk, hb⟩
    · rw [hb]
      rcases berlekamp_cases hf hd64 hsep (preBerlekamp n false) with ⟨-, he⟩ | ⟨g, k, hmul, hg, hk, -, he⟩
      · exact ⟨_, he false⟩
      · obtain ⟨hg, hk, hgf, hkf⟩ := deg_of_proper hf0 hmul hg hk
        obtain ⟨l1, h1⟩ := hfac g hg hgf
        obtain ⟨l2, h2⟩ := hfac k hk hkf
        exact ⟨_, he l1 l2 h1 h2⟩
    · obtain ⟨hr, -, hlt, -⟩ := deg_of_proper hf0 hmul hr hr
      obtain ⟨l, hl⟩ := hfac r hr hlt
      exact ⟨_, hb false l hl⟩
    · obtain ⟨hg, hk, hgf, hkf⟩ := deg_of_proper hf0 hmul hg hk
      obtain ⟨l1, h1⟩ := hfac g hg hgf
      obtain ⟨l2, h2⟩ := hfac k hk hkf
      exact ⟨_, hb false l1 l2 h1 h2⟩

/-! ## The irreducibility test -/

/-- 2 to the number of factors of a list, counted with their multiplicities. -/
def twoPowCount (l : FacList) : Nat := listProd (fun _ => 2) l

theorem twoPowCount_singleton (f : Nat) : twoPowCount [(f, 1)] = 2 := rfl

/-- The shallow mode answers for every non-constant word, and lists one factor exactly where it is irreducible
(R163, R165). -/
theorem exists_preBerlekamp_shallow {n f : Nat} (hf : 1 ≤ deg f) (hn : deg f < n) (h64 : f < 2 ^ 64) :
    ∃ l, preBerlekamp n true f = .ok l ∧
      (Irreducible (polyOf f) ∧ l = [(f, 1)] ∨ ¬ Irreducible (polyOf f) ∧ 4 ≤ twoPowCount l) := by
  induction n generalizing f with
  | zero => omega
  | succ n ih =>
    have hf0 := ne_zero_of_deg_pos hf
    have hd64 : deg f < 64 := deg_lt_of_lt_two_pow (by omega) h64
    have hfac : ∀ g, 1 ≤ deg g → deg g < deg f → ∃ l, preBerlekamp n true g = .ok l ∧ 2 ≤ twoPowCount l := by
      intro g hg hlt
      obtain ⟨l, hl, ⟨-, rfl⟩ | ⟨-, h4⟩⟩ := ih hg (by omega) (lt_two_pow_64_of_deg_le h64 hlt.le)
      · exact ⟨_, hl, (twoPowCount_singleton g).ge⟩
      · exact ⟨l, hl, by omega⟩
    rcases preBerlekamp_cases hf h64 n with ⟨hsep, hb⟩ | ⟨r, hmul, hr, hb⟩ | ⟨g, k, hmul, hg, hk, hb⟩
    · rw [hb]
      rcases berlekamp_cases hf hd64 hsep (preBerlekamp n false) with ⟨hirr, he⟩ | ⟨g, k, hmul, hg, hk, he, -⟩
      · exact ⟨_, he true, .inl ⟨hirr, rfl⟩⟩
      · refine ⟨_, he, .inr ⟨not_irreducible_of_proper hf0 hmul hg hk, ?_⟩⟩
        rw [twoPowCount, listProd_facInsert, listProd_facInsert]
        decide
    · obtain ⟨hr', -, hlt, -⟩ := deg_of_proper hf0 hmul hr hr
      obtain ⟨l, hl, h2⟩ := hfac r hr' hlt
      refine ⟨_, hb true l hl, .inr ⟨not_irreducible_of_proper hf0 hmul hr hr, ?_⟩⟩
      rw [twoPowCount, listProd_facScale, pow_two]
      exact Nat.mul_le_mul h2 h2
    · obtain ⟨hg', hk', hgf, hkf⟩ := deg_of_proper hf0 hmul hg hk
      obtain ⟨l1, h1, hc1⟩ := hfac g hg' hgf
      obtain ⟨l2, h2, hc2⟩ := hfac k hk' hkf
      refine ⟨_, hb true l1 l2 h1 h2, .inr ⟨not_irreducible_of_proper hf0 hmul hg hk, ?_⟩⟩
      rw [twoPowCount, listProd_facMerge]
      exact Nat.mul_le_mul hc1 hc2

/-- irr decides irreducibility of every word (R165). -/
theorem exists_irr {f : Nat} (h64 : f < 2 ^ 64) : ∃ b, irr f = .ok b ∧ (b = true ↔ Irreducible (polyOf f)) := by
  rw [irr]
  split
  next h0 =>
    refine ⟨false, rfl, iff_of_false Bool.false_ne_true fun hirr => ?_⟩
    have := deg_pos_iff.mpr (two_le_of_irreducible hirr)
    omega
  next h0 =>
    split
    next h1 =>
      have hf0 := ne_zero_of_deg_pos h1.ge
      refine ⟨true, rfl, iff_of_true rfl (irreducible_of_degree_eq_one ?_)⟩
      rw [degree_polyOf hf0, h1]
      rfl
    next h1 =>
      obtain ⟨l, hl, h⟩ := exists_preBerlekamp_shallow (Nat.one_le_iff_ne_zero.mpr h0) (Nat.lt_succ_self _) h64
      rw [hl]
      refine ⟨_, rfl, ?_⟩
      rw [decide_eq_true_iff]
      rcases h with ⟨hirr, rfl⟩ | ⟨hirr, h4⟩
      · exact iff_of_true rfl hirr
      · refine iff_of_false (fun e => ?_) hirr
        rw [e, twoPowCount_singleton] at h4
        omega

/-- pfactor answers for every word (R164): a trivial factor and no list for a degree of 0, else the factorisation. -/
theorem pfactor_cases {f : Nat} (h64 : f < 2 ^ 64) :
    (f < 2 ∧ pfactor f = .ok (some f, [])) ∨ 2 ≤ f ∧ ∃ l, pfactor f = .ok (none, l) ∧ IsPolyFactors f l := by
  by_cases h2 : 2 ≤ f
  · have hpos := deg_pos_iff.mpr h2
    obtain ⟨l, hl⟩ := exists_preBerlekamp_full hpos (Nat.lt_succ_self _) h64
    refine .inr ⟨h2, l, ?_, isPolyFactors_of_preBerlekamp hpos (Nat.lt_succ_self _) h64 hl⟩
    rw [pfactor, if_neg (by omega), hl]
  · exact .inl ⟨not_le.mp h2, if_pos (deg_of_le_one (by omega))⟩

end Sys2Proof.Machine
end

section
/-! PROOFS. BKMAT, PFACTOR, PIRR and PLOWIRR (42_f2polyfactor.md R164 to R166, R172, R173, R175, R176). -/

namespace Sys2Proof.Machine

open Polynomial

/-! ## BKMAT -/

theorem length_bkmat (f : Nat) : (bkmat f).length = deg f := by rw [bkmat, List.length_map, List.length_range]

theorem execBkmat_of_deg_zero {rs1 : Reg} {s : State} (h : deg (s.u64 rs1) = 0) :
    exec (.bkmat rs1) s = .next (raise .undef s) := by
  simp only [exec, execBkmat, h, if_true, finish_fails]

/-- BKMAT stores the rows of the Berlekamp matrix, and leaves the other cells (R172). -/
theorem exists_exec_bkmat {rs1 : Reg} {s : State} (hw : Memory.wf s) (h : 1 ≤ deg (s.u64 rs1)) :
    let n := deg (s.u64 rs1)
    ∃ m, exec (.bkmat rs1) s = .next (({ s with mdim := dimWord n n, mat := m }.setMatv true).setCode 0) ∧
      (∀ r < n, (bankRead m r).toNat = (bkmat (s.u64 rs1)).getD r 0) ∧
      ∀ k, n ≤ k → bankRead m k = bankRead s.mat k := by
  intro n
  have hlen : (bkmat (s.u64 rs1)).length = n := length_bkmat _
  have hn : n ≤ 64 := (deg_lt_of_lt_two_pow (by omega) (u64_lt s rs1)).le
  obtain ⟨m, hm, hr, hrest⟩ := exists_memWriteAll_rows (s := { s with mdim := dimWord n n }) (b := .mat)
    (hlen.trans_le hn) hw.1 hn (bkmat_lt (s.u64 rs1))
  refine ⟨m, ?_, fun r hlt => ?_, fun k hk => hrest k (hlen.trans_le hk)⟩
  · simp only [exec, execBkmat]
    rw [if_neg (by omega), hm, onCell_ok, finish_ok]
    rfl
  · rw [List.getD_eq_getElem _ _ (hlen ▸ hlt), hr r (hlen ▸ hlt)]

/-- Settles O37: the rows stored are those of the Berlekamp matrix. -/
theorem berlekampMatrix : Obligations.BerlekampMatrix := by
  intro s rs1 hw
  refine ⟨fun h => execBkmat_of_deg_zero (deg_of_le_one (by omega)), fun h => ?_⟩
  have hpos : 1 ≤ deg (s.u64 rs1) := deg_pos_iff.mpr h
  have hn : deg (s.u64 rs1) ≤ 64 := (deg_lt_of_lt_two_pow (by omega) (u64_lt s rs1)).le
  obtain ⟨m, hexec, hr, hrest⟩ := exists_exec_bkmat hw hpos
  refine ⟨m, hexec, fun r hlt => ?_, fun r hlt h hh => ?_, hrest⟩
  · rw [hr r hlt, List.getD_eq_getElem _ _ ((length_bkmat _).symm ▸ hlt)]
    exact bkmat_lt _ _ (List.getElem_mem _)
  · rw [hr r hlt, bitCount_bkmat hpos hn hlt hh]

/-! ## PFACTOR -/

/-- Storing a factor list that FAC can hold (R173, 44_intarith.md R229). -/
theorem exists_storeFactors {s : State} (hw : Memory.wf s) {l : FacList} (hl : Storable l) (kind : Nat)
    (triv : Option Word) :
    ∃ mb mm, HoldsPairs mb mm l ∧ s.storeFactors kind triv l =
      .ok { s with fstat := fstatWord l.length kind triv.isSome, ftriv := triv.getD 0, facb := mb, facm := mm } := by
  have hcap : l.length ≤ 16 := hl.length.trans (by omega)
  obtain ⟨mb, hmb, hb, -⟩ := exists_memWriteAll_rows (s := s) (b := .facb) (n := 64) (vs := l.map Prod.fst)
    (by rwa [List.length_map]) hw.2.2.1 le_rfl
    (List.forall_mem_map.mpr fun p hp => (hl.ordered.2 p hp).1.2)
  obtain ⟨mm, hmm, hm, -⟩ := exists_memWriteAll_rows (s := s.setBank .facb mb) (b := .facm) (n := 64)
    (vs := l.map Prod.snd) (by rwa [List.length_map]) hw.2.2.2 le_rfl
    (List.forall_mem_map.mpr fun p hp => (hl.multiplicity p hp).trans_lt (by omega))
  refine ⟨mb, mm, fun i h => ⟨?_, ?_⟩, ?_⟩
  · rw [hb i (by simpa using h), List.getElem_map]
  · rw [hm i (by simpa using h), List.getElem_map]
  · rw [State.storeFactors, hmb, onCell_ok, hmm, onCell_ok]
    rfl

/-- Settles O38: preBerlekamp ends in no fatal condition, and its list fits FAC. -/
theorem polyFactorisation : Obligations.PolyFactorisation := by
  intro s rs1 hw
  refine ⟨fun h => ?_, fun h => ?_⟩
  · have hp := (pfactor_cases (u64_lt s rs1)).resolve_right (fun h' => by omega)
    simp only [exec, execPfactor, hp.2, onFatal_ok, State.storeFactors, List.map_nil, State.memWriteAll, onCell_ok,
      finish_ok]
    simp [State.u64]
  · obtain ⟨-, l, hp, hl⟩ := (pfactor_cases (u64_lt s rs1)).resolve_left (fun h' => by omega)
    have hstore := hl.storable (u64_lt s rs1)
    obtain ⟨mb, mm, hh, he⟩ := exists_storeFactors hw hstore 1 none
    refine ⟨l, mb, mm, hl, hstore.length, hh, ?_⟩
    simp only [exec, execPfactor, hp, onFatal_ok, Option.map_none, he, finish_ok]
    rfl

/-! ## PIRR -/

theorem exists_exec_pirr (rd rs1 : Reg) (s : State) :
    ∃ b : Bool, (b = true ↔ Irreducible (polyOf (s.u64 rs1))) ∧
      exec (.pirr rd rs1) s = .next ((s.setNat rd b.toNat).setCode 0) := by
  obtain ⟨b, hb, hiff⟩ := exists_irr (u64_lt s rs1)
  refine ⟨b, hiff, ?_⟩
  simp only [exec, execPirr, hb, onFatal_ok, finish_ok]
  rfl

/-! ## PLOWIRR -/

/-- There is an irreducible polynomial of every degree: the minimal polynomial of a primitive element of GF(2^d). -/
theorem exists_irreducible_of_degree {d : Nat} (hd : 1 ≤ d) :
    ∃ p : (ZMod 2)[X], Irreducible p ∧ p.natDegree = d := by
  obtain ⟨a, ha⟩ := Field.exists_primitive_element (ZMod 2) (GaloisField 2 d)
  have hint : IsIntegral (ZMod 2) a := Algebra.IsIntegral.isIntegral a
  refine ⟨minpoly (ZMod 2) a, minpoly.irreducible hint, ?_⟩
  rw [← IntermediateField.adjoin.finrank hint, ha, IntermediateField.finrank_top', GaloisField.finrank 2 (by omega)]

/-- An irreducible polynomial other than x has constant term 1. -/
theorem odd_of_irreducible {c : Nat} (h : Irreducible (polyOf c)) (h2 : c ≠ 2) : c % 2 = 1 := by
  by_contra heven
  have hc : c = (c / 2) <<< 1 := by rw [Nat.shiftLeft_eq]; omega
  have hmul : polyOf c = polyOf (c / 2) * polyOf 2 := by
    rw [polyOf_two]
    exact (congrArg polyOf hc).trans (by rw [polyOf_shiftLeft, pow_one])
  have := two_le_of_irreducible h
  exact not_irreducible_of_proper (by omega) hmul (by omega) (by omega) h

/-- There is a candidate of R166 of every degree that is irreducible. -/
theorem exists_odd_irreducible {d : Nat} (hd : 1 ≤ d) : ∃ c, c % 2 = 1 ∧ deg c = d ∧ Irreducible (polyOf c) := by
  rcases Nat.eq_or_lt_of_le hd with rfl | hd2
  · exact ⟨3, rfl, rfl, irreducible_of_degree_eq_one (degree_polyOf (f := 3) (by omega))⟩
  · obtain ⟨p, hp, hdeg⟩ := exists_irreducible_of_degree hd
    obtain ⟨c, -, rfl⟩ := exists_polyOf_eq (p := p) (n := d + 1) (by
      rw [degree_eq_natDegree hp.ne_zero, hdeg]
      exact_mod_cast Nat.lt_succ_self d)
    rw [natDegree_polyOf] at hdeg
    refine ⟨c, odd_of_irreducible hp ?_, hdeg, hp⟩
    rintro rfl
    exact absurd hdeg (by rw [show deg 2 = 1 from rfl]; omega)

/-- The search of R166 answers the first candidate that passes the test. -/
theorem lowestirrLoop_eq {k n c : Nat} (hk : k < n) (hirr : irr (c + 2 * k) = .ok true)
    (hfirst : ∀ j < k, irr (c + 2 * j) = .ok false) : lowestirrLoop n c = .ok (some (c + 2 * k)) := by
  obtain ⟨n, rfl⟩ := Nat.exists_eq_add_one_of_ne_zero (by omega : n ≠ 0)
  induction k generalizing n c with
  | zero =>
    rw [lowestirrLoop, show irr c = .ok true from hirr]
    rfl
  | succ k ih =>
    have hshift : ∀ j, c + 2 * (j + 1) = c + 2 + 2 * j := fun j => by omega
    obtain ⟨n, rfl⟩ := Nat.exists_eq_add_one_of_ne_zero (by omega : n ≠ 0)
    rw [lowestirrLoop, show irr c = .ok false from hfirst 0 (by omega), hshift]
    exact ih (hshift k ▸ hirr) (fun j hj => hshift j ▸ hfirst (j + 1) (by omega)) n (by omega)

/-- The first candidate of R166. -/
theorem firstCandidate_eq {d : Nat} (hd : 1 ≤ d) : (1 <<< d) ||| 1 = 2 ^ d + 1 := by
  have := Nat.two_pow_add_eq_or_of_lt (Nat.one_lt_two_pow (by omega : d ≠ 0)) 1
  rw [Nat.one_shiftLeft]
  simpa using this.symm

/-- The candidates of R166 are the polynomials of degree d with constant term 1. -/
theorem odd_and_deg_iff {d c : Nat} (hd : 1 ≤ d) :
    c % 2 = 1 ∧ deg c = d ↔ ∃ k < 2 ^ (d - 1), c = 2 ^ d + 1 + 2 * k := by
  obtain ⟨d, rfl⟩ := Nat.exists_eq_add_one_of_ne_zero (by omega : d ≠ 0)
  have hdeg : deg c = d + 1 ↔ 2 ^ (d + 1) ≤ c ∧ c < 2 ^ (d + 1 + 1) := by
    by_cases hc : c = 0
    · have := Nat.two_pow_pos (d + 1)
      subst hc
      simp [deg]
    · exact Nat.log2_eq_iff hc
  rw [hdeg, Nat.add_sub_cancel, pow_succ, pow_succ, pow_succ]
  constructor
  · rintro ⟨hodd, hle, hlt⟩
    exact ⟨(c - 2 ^ d * 2) / 2, by omega, by omega⟩
  · rintro ⟨k, hk, rfl⟩
    omega

/-- lowestirr answers the least irreducible polynomial of a degree with constant term 1 (R166). -/
theorem exists_lowestirr {d : Nat} (hd : 1 ≤ d) (h63 : d ≤ 63) :
    ∃ c < 2 ^ 64, lowestirr d = .ok (some c) ∧
      IsLeast {p | p % 2 = 1 ∧ (polyOf p).natDegree = d ∧ Irreducible (polyOf p)} c := by
  classical
  have hmem : ∀ p, p ∈ {p | p % 2 = 1 ∧ (polyOf p).natDegree = d ∧ Irreducible (polyOf p)} ↔
      (∃ k < 2 ^ (d - 1), p = 2 ^ d + 1 + 2 * k) ∧ Irreducible (polyOf p) := fun p => by
    rw [← odd_and_deg_iff hd, Set.mem_ofPred_eq, natDegree_polyOf, and_assoc]
  have h64 : ∀ k < 2 ^ (d - 1), 2 ^ d + 1 + 2 * k < 2 ^ 64 := fun k hk =>
    lt_two_pow_64_iff.mpr (((odd_and_deg_iff hd).mpr ⟨k, hk, rfl⟩).2.trans_le h63)
  have hex : ∃ k, k < 2 ^ (d - 1) ∧ Irreducible (polyOf (2 ^ d + 1 + 2 * k)) := by
    obtain ⟨c, hodd, hdeg, hirr⟩ := exists_odd_irreducible hd
    obtain ⟨k, hk, rfl⟩ := (odd_and_deg_iff hd).mp ⟨hodd, hdeg⟩
    exact ⟨k, hk, hirr⟩
  obtain ⟨hk, hirr⟩ := Nat.find_spec hex
  refine ⟨_, h64 _ hk, ?_, (hmem _).mpr ⟨⟨_, hk, rfl⟩, hirr⟩, fun p hp => ?_⟩
  · rw [lowestirr, firstCandidate_eq hd]
    refine lowestirrLoop_eq hk ?_ fun j hj => ?_
    · obtain ⟨b, hb, hiff⟩ := exists_irr (h64 _ hk)
      rw [hb, hiff.mpr hirr]
    · have hj' : j < 2 ^ (d - 1) := hj.trans hk
      obtain ⟨b, hb, hiff⟩ := exists_irr (h64 j hj')
      rw [hb, Bool.eq_false_iff.mpr fun h => Nat.find_min hex hj ⟨hj', hiff.mp h⟩]
  · obtain ⟨⟨k, hk, rfl⟩, hirr⟩ := (hmem p).mp hp
    have := Nat.find_min' hex ⟨hk, hirr⟩
    omega

theorem execPlowirr_of_out {rd rs1 : Reg} {s : State} (h : s.s64 rs1 < 1 ∨ 63 < s.s64 rs1) :
    exec (.plowirr rd rs1) s = .next (raise .undef s) := by
  simp only [exec, execPlowirr, if_pos h, finish_fails]

theorem execPlowirr_of_degree {rd rs1 : Reg} {s : State} {c : Nat} (h1 : 1 ≤ s.s64 rs1) (h63 : s.s64 rs1 ≤ 63)
    (hc : lowestirr (s.s64 rs1).toNat = .ok (some c)) :
    exec (.plowirr rd rs1) s = .next ((s.setNat rd c).setCode 0) := by
  simp only [exec, execPlowirr, hc, onFatal_ok]
  rw [if_neg (by omega), finish_ok]

/-- Settles O39: the shallow mode decides irreducibility, and the search meets every candidate in order. -/
theorem irreducibility : Obligations.Irreducibility := by
  intro s rd rs1
  refine ⟨exists_exec_pirr rd rs1 s, execPlowirr_of_out, fun h1 h63 => ?_⟩
  obtain ⟨c, hc, hlow, hleast⟩ := exists_lowestirr (d := (s.s64 rs1).toNat) (by omega) (by omega)
  refine ⟨c, hc, ?_, execPlowirr_of_degree h1 h63 hlow⟩
  have hdeg : ∀ p, (polyOf p).natDegree = (s.s64 rs1).toNat ↔ ((polyOf p).natDegree : Int) = s.s64 rs1 :=
    fun p => by omega
  simpa only [hdeg] using hleast

end Sys2Proof.Machine
end

section
/-! PROOFS. PTOTIENT counts the residues coprime to a polynomial (42_f2polyfactor.md R168, R178): the count is
multiplicative over coprime factors, and known for the power of an irreducible polynomial. -/

namespace Sys2Proof.Machine

open Polynomial

/-! ## Counting coprime residues -/

/-- The residues modulo m that are coprime to it (R168). -/
def coprimeResidues (m : Nat) : Finset Nat := (Finset.range (2 ^ deg m)).filter fun u => pgcd u m = 1

theorem mem_coprimeResidues {m u : Nat} :
    u ∈ coprimeResidues m ↔ u < 2 ^ deg m ∧ IsCoprime (polyOf u) (polyOf m) := by
  rw [coprimeResidues, Finset.mem_filter, Finset.mem_range, pgcd_eq_one_iff]

theorem polyTotient_eq_card (m : Nat) : polyTotient m = (coprimeResidues m).card :=
  Nat.subtype_card _ fun u => by rw [mem_coprimeResidues, ← natDegree_polyOf]; rfl

theorem polyTotient_one : polyTotient 1 = 1 := (polyTotient_eq_card 1).trans rfl

/-! ## Coprime factors -/

/-- A residue is coprime to m where its remainder is. -/
theorem isCoprime_pmodp_iff (u : Nat) {m : Nat} (hm : m ≠ 0) :
    IsCoprime (polyOf (pmodp u m)) (polyOf m) ↔ IsCoprime (polyOf u) (polyOf m) := by
  have := EuclideanDomain.mod_add_div (polyOf u) (polyOf m)
  rw [polyOf_pmodp u hm, ← IsCoprime.add_mul_left_left_iff (z := polyOf u / polyOf m), this]

theorem dvd_polyOf_xor {m u v : Nat} (hm : m ≠ 0) (h : pmodp u m = pmodp v m) : polyOf m ∣ polyOf (u ^^^ v) := by
  have hmod : polyOf u % polyOf m = polyOf v % polyOf m := by rw [← polyOf_pmodp u hm, h, polyOf_pmodp v hm]
  have := (dvd_mod_sub (polyOf v) (polyOf m)).sub (dvd_mod_sub (polyOf u) (polyOf m))
  rwa [hmod, sub_sub_sub_cancel_left, sub_eq_add_mod_two, ← polyOf_xor] at this

/-- A residue modulo a product is given by its residues modulo two coprime factors. -/
theorem eq_of_pmodp_eq {a b c u v : Nat} (hc : c ≠ 0) (h : polyOf c = polyOf a * polyOf b)
    (hab : IsCoprime (polyOf a) (polyOf b)) (hu : u < 2 ^ deg c) (hv : v < 2 ^ deg c)
    (ha : pmodp u a = pmodp v a) (hb : pmodp u b = pmodp v b) : u = v := by
  obtain ⟨ha0, hb0, -⟩ := deg_of_mul hc h
  have hdvd : polyOf c ∣ polyOf (u ^^^ v) := h ▸ hab.mul_dvd (dvd_polyOf_xor ha0 ha) (dvd_polyOf_xor hb0 hb)
  exact Nat.xor_eq_zero_iff.mp (eq_zero_of_dvd hc (Nat.xor_lt_two_pow hu hv) hdvd)

/-- Every pair of residues modulo two coprime factors is that of a residue modulo their product: there are as many. -/
theorem exists_pmodp_eq {a b c x y : Nat} (hc : c ≠ 0) (h : polyOf c = polyOf a * polyOf b)
    (hab : IsCoprime (polyOf a) (polyOf b)) (hx : x < 2 ^ deg a) (hy : y < 2 ^ deg b) :
    ∃ u < 2 ^ deg c, pmodp u a = x ∧ pmodp u b = y := by
  obtain ⟨ha0, hb0, hdeg⟩ := deg_of_mul hc h
  have hsurj := Finset.surjOn_of_injOn_of_card_le (s := Finset.range (2 ^ deg c))
    (t := Finset.range (2 ^ deg a) ×ˢ Finset.range (2 ^ deg b)) (fun u => (pmodp u a, pmodp u b))
    (fun u _ => by simpa using ⟨pmodp_lt u ha0, pmodp_lt u hb0⟩)
    (fun u hu v hv huv => eq_of_pmodp_eq hc h hab (by simpa using hu) (by simpa using hv)
      (Prod.mk.inj huv).1 (Prod.mk.inj huv).2)
    (by rw [Finset.card_product, Finset.card_range, Finset.card_range, Finset.card_range, hdeg, pow_add])
  obtain ⟨u, hu, huv⟩ := hsurj (show (x, y) ∈ _ by simpa using ⟨hx, hy⟩)
  exact ⟨u, by simpa using hu, (Prod.mk.inj huv).1, (Prod.mk.inj huv).2⟩

/-- The count is multiplicative over coprime factors. -/
theorem polyTotient_mul {a b c : Nat} (hc : c ≠ 0) (h : polyOf c = polyOf a * polyOf b)
    (hab : IsCoprime (polyOf a) (polyOf b)) : polyTotient c = polyTotient a * polyTotient b := by
  obtain ⟨ha0, hb0, -⟩ := deg_of_mul hc h
  have hmem : ∀ u < 2 ^ deg c,
      u ∈ coprimeResidues c ↔ pmodp u a ∈ coprimeResidues a ∧ pmodp u b ∈ coprimeResidues b := by
    intro u hu
    simp only [mem_coprimeResidues, isCoprime_pmodp_iff u ha0, isCoprime_pmodp_iff u hb0, pmodp_lt u ha0, pmodp_lt u hb0,
      hu, h, IsCoprime.mul_right_iff, true_and]
  have hlt : ∀ u ∈ coprimeResidues c, u < 2 ^ deg c := fun u hu => (mem_coprimeResidues.mp hu).1
  rw [polyTotient_eq_card, polyTotient_eq_card, polyTotient_eq_card, ← Finset.card_product]
  refine Finset.card_nbij (fun u => (pmodp u a, pmodp u b)) (fun u hu => ?_) (fun u hu v hv huv => ?_) ?_
  · exact Finset.mem_product.mpr ((hmem u (hlt u hu)).mp hu)
  · exact eq_of_pmodp_eq hc h hab (hlt u hu) (hlt v hv) (Prod.mk.inj huv).1 (Prod.mk.inj huv).2
  · rintro ⟨x, y⟩ hxy
    obtain ⟨hx, hy⟩ := Finset.mem_product.mp hxy
    obtain ⟨u, hu, rfl, rfl⟩ := exists_pmodp_eq hc h hab (mem_coprimeResidues.mp hx).1 (mem_coprimeResidues.mp hy).1
    exact ⟨u, (hmem u hu).mpr ⟨hx, hy⟩, rfl⟩

/-! ## Powers of an irreducible polynomial -/

theorem exists_polyOf (p : (ZMod 2)[X]) : ∃ a, polyOf a = p := by
  obtain ⟨a, -, ha⟩ := exists_polyOf_eq (p := p) (n := p.natDegree + 1)
    (degree_le_natDegree.trans_lt (by exact_mod_cast Nat.lt_succ_self _))
  exact ⟨a, ha⟩

theorem clmul_right_injective {p : Nat} (hp : p ≠ 0) : Function.Injective (clmul p) := fun u v h => by
  have := congrArg polyOf h
  rw [polyOf_clmul, polyOf_clmul] at this
  exact polyOf_injective (mul_left_cancel₀ (polyOf_ne_zero hp) this)

/-- The multiples of p with n more coefficients than its degree are its products with n coefficients. -/
theorem exists_clmul_iff {p n u : Nat} (hp : p ≠ 0) :
    (∃ v < 2 ^ n, clmul p v = u) ↔ u < 2 ^ (deg p + n) ∧ polyOf p ∣ polyOf u := by
  have hlt : ∀ v, clmul p v < 2 ^ (deg p + n) ↔ v < 2 ^ n := fun v => by
    have hzero : clmul p 0 = 0 := polyOf_injective (by rw [polyOf_clmul, polyOf_zero, mul_zero])
    by_cases hv : v = 0
    · simp [hv, hzero]
    · have hmul : clmul p v ≠ 0 := hzero ▸ (clmul_right_injective hp).ne hv
      rw [← Nat.log2_lt hv, ← Nat.log2_lt hmul, ← deg, ← deg, deg_clmul, if_neg (by simp [hp, hv]),
        Nat.add_lt_add_iff_left]
  constructor
  · rintro ⟨v, hv, rfl⟩
    exact ⟨(hlt v).mpr hv, polyOf v, polyOf_clmul p v⟩
  · rintro ⟨hu, w, hw⟩
    obtain ⟨v, rfl⟩ := exists_polyOf w
    rw [← polyOf_clmul] at hw
    obtain rfl := polyOf_injective hw
    exact ⟨v, (hlt v).mp hu, rfl⟩

/-- Coprime to a power of p are the residues that p does not divide. -/
theorem polyTotient_pow {p q e : Nat} (hp : Irreducible (polyOf p)) (he : 1 ≤ e) (h : polyOf q = polyOf p ^ e) :
    polyTotient q = (2 ^ deg p) ^ (e - 1) * (2 ^ deg p - 1) := by
  obtain ⟨k, rfl⟩ := Nat.exists_eq_add_one_of_ne_zero (by omega : e ≠ 0)
  have hp0 : p ≠ 0 := by have := two_le_of_irreducible hp; omega
  have hdeg : deg q = deg p + k * deg p := by
    rw [← natDegree_polyOf, h, natDegree_pow, natDegree_polyOf]
    ring
  have hset : coprimeResidues q = Finset.range (2 ^ deg q) \ (Finset.range (2 ^ (k * deg p))).image (clmul p) := by
    ext u
    have himage : u ∈ (Finset.range (2 ^ (k * deg p))).image (clmul p) ↔ u < 2 ^ deg q ∧ polyOf p ∣ polyOf u := by
      simpa [hdeg] using exists_clmul_iff hp0
    rw [mem_coprimeResidues, h, IsCoprime.pow_right_iff (by omega), isCoprime_comm, hp.coprime_iff_not_dvd,
      Finset.mem_sdiff, himage, Finset.mem_range]
    tauto
  have hsub : (Finset.range (2 ^ (k * deg p))).image (clmul p) ⊆ Finset.range (2 ^ deg q) := by
    intro u hu
    have := (exists_clmul_iff hp0).mp (by simpa using hu)
    simpa [hdeg] using this.1
  rw [polyTotient_eq_card, hset, Finset.card_sdiff_of_subset hsub, Finset.card_range,
    Finset.card_image_of_injective _ (clmul_right_injective hp0), Finset.card_range, hdeg, Nat.add_sub_cancel, pow_add,
    mul_comm k, pow_mul, mul_comm, Nat.mul_sub_one]

/-! ## PTOTIENT -/

theorem IsPolyFactors.ne_zero {f : Nat} {l : FacList} (h : IsPolyFactors f l) : f ≠ 0 := fun e => by
  obtain ⟨⟨-, hirr⟩, hprod⟩ := isPolyFactors_iff.mp h
  refine (two_pow_natDegree_listProd (l := l) fun p hp => ?_).1.ne_zero (by rw [hprod, e, polyOf_zero])
  have := two_le_of_irreducible (hirr p hp).1
  omega

/-- The power of the first base and the product of the others are coprime. -/
theorem IsPolyFactors.tail {p e f : Nat} {t : FacList} (h : IsPolyFactors f ((p, e) :: t)) :
    ∃ c, IsPolyFactors c t ∧ polyOf f = polyOf (ppow p e) * polyOf c ∧ IsCoprime (polyOf (ppow p e)) (polyOf c) := by
  obtain ⟨hasc, hirr, hprod⟩ := h
  rw [List.map_cons, List.pairwise_cons] at hasc
  rw [List.forall_mem_cons] at hirr
  rw [List.map_cons, List.prod_cons] at hprod
  obtain ⟨c, hc⟩ := exists_polyOf (t.map fun p => polyOf p.1 ^ p.2).prod
  refine ⟨c, ⟨hasc.2, hirr.2, hc.symm⟩, by rw [← hprod, polyOf_ppow, hc], ?_⟩
  rw [polyOf_ppow, hc]
  refine IsCoprime.pow_left (hirr.1.1.coprime_iff_not_dvd.mpr fun hd => ?_)
  obtain ⟨_, hmem, hd⟩ := hirr.1.1.prime.dvd_prod_iff.mp hd
  obtain ⟨b, hb, rfl⟩ := List.mem_map.mp hmem
  have hp2 := two_le_of_irreducible hirr.1.1
  have hrem := (pmodp_eq_zero_iff (by omega : p ≠ 0)).mpr (hirr.1.1.prime.dvd_of_dvd_pow hd)
  have heq := eq_of_irreducible_of_pmodp (hirr.2 b hb).1 hp2 hrem
  exact (hasc.1 b.1 (List.mem_map_of_mem hb)).ne' heq

/-- The product of R168 over a factorisation is the number of coprime residues. -/
theorem polyTotient_of_isPolyFactors {f : Nat} {l : FacList} (h : IsPolyFactors f l) :
    polyTotient f = (l.map fun p => (2 ^ deg p.1) ^ (p.2 - 1) * (2 ^ deg p.1 - 1)).prod := by
  induction l generalizing f with
  | nil =>
    obtain rfl : f = 1 := polyOf_injective (by rw [polyOf_one]; exact h.2.2.symm)
    exact polyTotient_one
  | cons p t ih =>
    obtain ⟨p, e⟩ := p
    obtain ⟨c, hc, hmul, hcop⟩ := h.tail
    obtain ⟨hp, he⟩ := h.2.1 (p, e) (by simp)
    rw [polyTotient_mul h.ne_zero hmul hcop, polyTotient_pow hp he (polyOf_ppow p e), ih hc, List.map_cons, List.prod_cons]

/-- ptotient is the number of coprime residues (R168). -/
theorem ptotient_eq {f : Nat} (hf : f ≠ 0) (h64 : f < 2 ^ 64) : ptotient f = .ok (polyTotient f) := by
  rcases pfactor_cases h64 with ⟨h2, hp⟩ | ⟨-, l, hp, hl⟩
  · obtain rfl : f = 1 := by omega
    rw [ptotient, hp, polyTotient_one]
    rfl
  · rw [ptotient, hp, polyTotient_of_isPolyFactors hl]

/-- Settles O41: the product of R168 over the factor list counts the coprime residues. -/
theorem polyTotientCounts : Obligations.PolyTotientCounts := by
  intro s rd rs1
  constructor
  · intro h
    simp only [exec, execPtotient, if_pos h, finish_fails]
  · intro h
    simp only [exec, execPtotient, if_neg h, ptotient_eq h (u64_lt s rs1), onFatal_ok, finish_ok]

end Sys2Proof.Machine
end

section
/-! PROOFS. The commands of F2[x]/(m) beyond the ring operations: the construction of the modulus, the inverse, the
quotient, powers and the next unit, with the same of Z/mZ where a statement covers both rings (43_f2polymod.md R191 to
R193, R198 to R202; 45_intmod.md R241, R250). -/

namespace Sys2Proof.Machine

open Polynomial

/-! ## Congruence modulo a polynomial -/

/-- Congruent polynomials are those with the same class in F2[x]/(m). -/
theorem polyCongr_iff_mk_eq {m : Nat} {p q : (ZMod 2)[X]} :
    PolyCongr m p q ↔ AdjoinRoot.mk (polyOf m) p = AdjoinRoot.mk (polyOf m) q := AdjoinRoot.mk_eq_mk.symm

theorem PolyCongr.refl (m : Nat) (p : (ZMod 2)[X]) : PolyCongr m p p := polyCongr_iff_mk_eq.mpr rfl

theorem PolyCongr.symm {m : Nat} {p q : (ZMod 2)[X]} (h : PolyCongr m p q) : PolyCongr m q p :=
  polyCongr_iff_mk_eq.mpr (polyCongr_iff_mk_eq.mp h).symm

theorem PolyCongr.pow {m : Nat} {p q : (ZMod 2)[X]} (h : PolyCongr m p q) (k : Nat) : PolyCongr m (p ^ k) (q ^ k) := by
  rw [polyCongr_iff_mk_eq, map_pow, map_pow, polyCongr_iff_mk_eq.mp h]

theorem PolyCongr.pow_one {m : Nat} {p : (ZMod 2)[X]} (h : PolyCongr m p 1) (k : Nat) : PolyCongr m (p ^ k) 1 :=
  one_pow (M := (ZMod 2)[X]) k ▸ h.pow k

/-! ## Products and powers of residues -/

/-- What the start and every product keep, the result of square-and-multiply keeps. -/
theorem powLoop_induction {P : Nat → Prop} {mul : Nat → Nat → Nat} (hmul : ∀ a b, P (mul a b)) (n : Nat) {r : Nat}
    (hr : P r) (b k : Nat) : P (powLoop mul n r b k) := by
  induction n generalizing r b k with
  | zero => exact hr
  | succ n ih =>
    rw [powLoop]
    split
    next => exact hr
    next =>
      refine ih ?_ _ _
      split
      next => exact hmul r b
      next => exact hr

section
variable {m : Nat} (hm : m ≠ 0)
include hm

theorem pmulmod_lt (a b : Nat) : pmulmod m a b < 2 ^ deg m := pmodp_lt _ hm

/-- pmulmod is the product in F2[x]/(m) (R191). -/
theorem polyCongr_pmulmod (a b : Nat) : PolyCongr m (polyOf (pmulmod m a b)) (polyOf a * polyOf b) :=
  polyOf_clmul a b ▸ polyCongr_pmodp (clmul a b) hm

theorem ppowmod_lt (a e : Nat) : ppowmod m a e < 2 ^ deg m :=
  powLoop_induction (P := (· < 2 ^ deg m)) (pmulmod_lt hm) e (pmodp_lt 1 hm) a e

/-- ppowmod is the power in F2[x]/(m) (R191). -/
theorem polyCongr_ppowmod (a e : Nat) : PolyCongr m (polyOf (ppowmod m a e)) (polyOf a ^ e) := by
  have hone := polyCongr_iff_mk_eq.mp (polyCongr_pmodp 1 hm)
  have hmul : ∀ a b, AdjoinRoot.mk (polyOf m) (polyOf (pmulmod m a b)) =
      AdjoinRoot.mk (polyOf m) (polyOf a) * AdjoinRoot.mk (polyOf m) (polyOf b) := fun a b => by
    rw [polyCongr_iff_mk_eq.mp (polyCongr_pmulmod hm a b), map_mul]
  rw [polyCongr_iff_mk_eq, ppowmod,
    map_powLoop (f := fun a => AdjoinRoot.mk (polyOf m) (polyOf a)) hmul e (pmodp 1 m) a e le_rfl, hone, polyOf_one,
    map_one, one_mul, map_pow]

end

/-! ## The inverse -/

/-- precip answers nothing for a residue that is no unit (R192). -/
theorem precip_eq_none {m a : Nat} (h : pgcd a m ≠ 1) : precip m a = none :=
  if_pos fun hg => h ((pxgcd_spec a m).1.symm.trans hg)

section
variable {m a : Nat} (hm : m ≠ 0)
include hm

/-- The unit test does not depend on the representative of the class. -/
theorem pgcd_pmodp_eq_one_iff : pgcd (pmodp a m) m = 1 ↔ pgcd a m = 1 := by
  rw [pgcd_eq_one_iff, pgcd_eq_one_iff, isCoprime_pmodp_iff a hm]

/-- precip answers a reduced inverse of a unit (R192). -/
theorem exists_precip_eq_some (h : pgcd a m = 1) :
    ∃ r < 2 ^ deg m, PolyCongr m (polyOf r * polyOf a) 1 ∧ precip m a = some r := by
  obtain ⟨hg, hcomb⟩ := pxgcd_spec a m
  have hg1 : (pxgcd a m).1 = 1 := hg.trans h
  rw [hg1, polyOf_one] at hcomb
  have hcofactor : PolyCongr m (polyOf (pxgcd a m).2.1 * polyOf a) 1 :=
    ⟨-polyOf (pxgcd a m).2.2, by linear_combination -hcomb⟩
  refine ⟨_, pmodp_lt (pxgcd a m).2.1 hm, ?_, if_neg (not_not.mpr hg1)⟩
  exact ((polyCongr_pmodp _ hm).mul (.refl m _)).trans hcofactor

/-- A command that needs the inverse of the residue of a unit goes on with a reduced inverse of the unit. -/
theorem exists_needInverse_eq (h : pgcd a m = 1) :
    ∃ r < 2 ^ deg m, PolyCongr m (polyOf r * polyOf a) 1 ∧
      ∀ k, needInverse (precip m (pmodp a m)) (pmodp a m) k = k r := by
  obtain ⟨r, hr, hinv, hsome⟩ := exists_precip_eq_some hm ((pgcd_pmodp_eq_one_iff hm).mpr h)
  exact ⟨r, hr, ((PolyCongr.refl m _).mul (polyCongr_pmodp a hm).symm).trans hinv, fun k => by rw [hsome]; rfl⟩

theorem needInverse_of_zero (h : pgcd a m ≠ 1) (h0 : pmodp a m = 0) (k : Nat → Result) :
    needInverse (precip m (pmodp a m)) (pmodp a m) k = fails .divzero := by
  rw [precip_eq_none (mt (pgcd_pmodp_eq_one_iff hm).mp h)]
  exact if_pos h0

theorem needInverse_of_ne_zero (h : pgcd a m ≠ 1) (h0 : pmodp a m ≠ 0) (k : Nat → Result) :
    needInverse (precip m (pmodp a m)) (pmodp a m) k = fails .notinv := by
  rw [precip_eq_none (mt (pgcd_pmodp_eq_one_iff hm).mp h)]
  exact if_neg h0

end

/-! ## PMRECIP and PMDIV -/

section
variable {s : State} (hv : s.pmodv = true) (rd rs1 rs2 : Reg)
include hv

theorem execPmrecip_of_valid : exec (.pmrecip rd rs1) s = finish s (needInverse (precip s.pm (pmodp (s.u64 rs1) s.pm))
    (pmodp (s.u64 rs1) s.pm) fun r => .ok (s.setNat rd r)) := by
  rw [exec, execPmrecip, hv]
  rfl

theorem execPmdiv_of_valid : exec (.pmdiv rd rs1 rs2) s = finish s (needInverse
    (precip s.pm (pmodp (s.u64 rs2) s.pm)) (pmodp (s.u64 rs2) s.pm) fun r =>
      .ok (s.setNat rd (pmulmod s.pm (s.presidue rs1) r))) := by
  rw [exec, execPmdiv, hv]
  rfl

end

theorem pm_ne_zero {s : State} (h : s.pmod ≠ 0) : s.pm ≠ 0 := fun h0 => h (BitVec.eq_of_toNat_eq h0)

/-- Settles O44: the cofactor of the operand is its inverse, and the product with the inverse is the quotient. -/
theorem polyInverse : Obligations.PolyInverse := by
  intro s rd rs1 rs2 hv hm0
  have hm : s.pm ≠ 0 := pm_ne_zero hm0
  rw [execPmrecip_of_valid hv, execPmdiv_of_valid hv]
  refine ⟨fun hu => ?_, fun hu h0 => ?_, fun hu h0 => ?_⟩
  · obtain ⟨r, hr, hinv, hgo⟩ := exists_needInverse_eq hm hu
    obtain ⟨hr64, hrred⟩ := reduced_result s.pmod.isLt hr
    obtain ⟨hq64, hqred⟩ := reduced_result s.pmod.isLt (pmulmod_lt hm (s.presidue rs1) r)
    have hquot : PolyCongr s.pm (polyOf (pmulmod s.pm (s.presidue rs1) r) * polyOf (s.u64 rs2))
        (polyOf (s.u64 rs1)) := by
      have hprod := (polyCongr_pmulmod hm (s.presidue rs1) r).mul (.refl s.pm (polyOf (s.u64 rs2)))
      have hcancel := (polyCongr_pmodp (s.u64 rs1) hm).mul hinv
      rw [mul_one, ← mul_assoc] at hcancel
      exact hprod.trans hcancel
    rw [hgo, hgo, finish_ok, finish_ok]
    exact ⟨⟨r, hr64, hrred, hinv, rfl⟩, ⟨_, hq64, hqred, hquot, rfl⟩⟩
  · rw [needInverse_of_zero hm hu h0, needInverse_of_zero hm hu h0, finish_fails]
    exact ⟨rfl, rfl⟩
  · rw [needInverse_of_ne_zero hm hu h0, needInverse_of_ne_zero hm hu h0, finish_fails]
    exact ⟨rfl, rfl⟩

/-! ## PMPOW -/

section
variable {s : State} {rs1 rs2 : Reg} (hv : s.pmodv = true) (rd : Reg)
include hv

theorem execPmpow_of_valid : exec (.pmpow rd rs1 rs2) s = finish s
    (if pmodp (s.u64 rs1) s.pm = 0 ∧ s.s64 rs2 = 0 then fails .zerozero
    else if s.s64 rs2 < 0 then
      needInverse (precip s.pm (pmodp (s.u64 rs1) s.pm)) (pmodp (s.u64 rs1) s.pm) fun r =>
        .ok (s.setNat rd (ppowmod s.pm r (s.s64 rs2).natAbs))
    else .ok (s.setNat rd (ppowmod s.pm (pmodp (s.u64 rs1) s.pm) (s.s64 rs2).natAbs))) := by
  rw [exec, execPmpow, hv]
  rfl

theorem execPmpow_of_zero (ha : pmodp (s.u64 rs1) s.pm = 0) (he : s.s64 rs2 = 0) :
    exec (.pmpow rd rs1 rs2) s = .next (raise .zerozero s) := by
  rw [execPmpow_of_valid hv, if_pos ⟨ha, he⟩, finish_fails]

theorem execPmpow_of_nonneg (he : 0 ≤ s.s64 rs2) (h0 : pmodp (s.u64 rs1) s.pm ≠ 0 ∨ s.s64 rs2 ≠ 0) :
    exec (.pmpow rd rs1 rs2) s =
      .next ((s.setNat rd (ppowmod s.pm (pmodp (s.u64 rs1) s.pm) (s.s64 rs2).toNat)).setCode 0) := by
  have habs : (s.s64 rs2).natAbs = (s.s64 rs2).toNat := by omega
  rw [execPmpow_of_valid hv, if_neg (by omega), if_neg (not_lt.mpr he), habs, finish_ok]

theorem execPmpow_of_neg (he : s.s64 rs2 < 0) :
    exec (.pmpow rd rs1 rs2) s = finish s (needInverse (precip s.pm (pmodp (s.u64 rs1) s.pm))
      (pmodp (s.u64 rs1) s.pm) fun r => .ok (s.setNat rd (ppowmod s.pm r (s.s64 rs2).natAbs))) := by
  rw [execPmpow_of_valid hv, if_neg (by omega), if_pos he]

end

/-- Settles O45: square-and-multiply gives the power of the residue, or of its inverse for a negative exponent. -/
theorem polyRingPower : Obligations.PolyRingPower := by
  intro s rd rs1 rs2 hv hm0
  have hm : s.pm ≠ 0 := pm_ne_zero hm0
  have hres : ∀ a e, ppowmod s.pm a e < 2 ^ 64 ∧ Reduced s.pm (ppowmod s.pm a e) := fun a e =>
    reduced_result s.pmod.isLt (ppowmod_lt hm a e)
  refine ⟨execPmpow_of_zero hv rd, fun he h0 => ?_, fun he hu => ?_, fun he hu h0 => ?_, fun he hu h0 => ?_⟩
  · obtain ⟨h64, hred⟩ := hres (pmodp (s.u64 rs1) s.pm) (s.s64 rs2).toNat
    have hpow := (polyCongr_ppowmod hm _ (s.s64 rs2).toNat).trans ((polyCongr_pmodp (s.u64 rs1) hm).pow _)
    exact ⟨_, h64, hred, hpow, execPmpow_of_nonneg hv rd he h0⟩
  · obtain ⟨r, -, hinv, hgo⟩ := exists_needInverse_eq hm hu
    obtain ⟨h64, hred⟩ := hres r (s.s64 rs2).natAbs
    have hone := hinv.pow_one (s.s64 rs2).natAbs
    rw [mul_pow] at hone
    rw [execPmpow_of_neg hv rd he, hgo, finish_ok]
    exact ⟨_, h64, hred, ((polyCongr_ppowmod hm r _).mul (.refl _ _)).trans hone, rfl⟩
  · rw [execPmpow_of_neg hv rd he, needInverse_of_zero hm hu h0, finish_fails]
  · rw [execPmpow_of_neg hv rd he, needInverse_of_ne_zero hm hu h0, finish_fails]

/-! ## PMNEXTU and IMNEXTU -/

/-- The search of R200 and R250: the least number above `p` and below `bound` that passes a test, or 0. -/
def leastAbove (test : Nat → Bool) (bound p : Nat) : Nat := (findUp test (bound - (p + 1)) (p + 1)).getD 0

theorem leastAbove_lt {test : Nat → Bool} {bound p : Nat} (hb : 0 < bound) : leastAbove test bound p < bound := by
  rw [leastAbove]
  rcases h : findUp test (bound - (p + 1)) (p + 1) with _ | u
  · exact hb
  · obtain ⟨hlo, hhi, -, -⟩ := findUp_eq_some h
    rw [Option.getD_some]
    omega

/-- The search decides a set of the numbers above `p`, where the test decides it below `bound`. -/
theorem leastAbove_spec {test : Nat → Bool} {bound p : Nat} {P : Nat → Prop}
    (hP : ∀ v, P v ↔ p < v ∧ v < bound ∧ test v = true) :
    IsLeast {v | P v} (leastAbove test bound p) ∨ leastAbove test bound p = 0 ∧ ∀ v, ¬ P v := by
  rw [leastAbove]
  rcases h : findUp test (bound - (p + 1)) (p + 1) with _ | u
  · refine .inr ⟨rfl, fun v hv => ?_⟩
    obtain ⟨hlo, hhi, ht⟩ := (hP v).mp hv
    exact Bool.false_ne_true ((findUp_eq_none h v (by omega) (by omega)).symm.trans ht)
  · obtain ⟨hlo, hhi, ht, hfirst⟩ := findUp_eq_some h
    refine .inl ⟨(hP u).mpr ⟨by omega, by omega, ht⟩, fun v hv => not_lt.mp fun hlt => ?_⟩
    obtain ⟨hpv, -, htv⟩ := (hP v).mp hv
    exact Bool.false_ne_true ((hfirst v (by omega) hlt).symm.trans htv)

theorem polyUnit_iff {m u : Nat} : PolyUnit m u ↔ 1 ≤ u ∧ u < 2 ^ deg m ∧ punit m u = true := by
  rw [PolyUnit, natDegree_polyOf, punit, decide_eq_true_iff, pgcd_eq_one_iff]

theorem intUnit_iff {m u : Nat} : IntUnit m u ↔ 1 ≤ u ∧ u < m ∧ iunit m u = true := by
  rw [IntUnit, iunit, decide_eq_true_iff, igcd_eq, Int.gcd_natCast_natCast]

theorem execPmnextu_of_valid {s : State} (hv : s.pmodv = true) (rd rs1 : Reg) : exec (.pmnextu rd rs1) s =
    .next ((s.setNat rd (leastAbove (punit s.pm) (2 ^ deg s.pm) (s.u64 rs1))).setCode 0) := by
  rw [exec, execPmnextu, hv]
  rfl

theorem execImnextu_of_valid {s : State} (hv : s.imodv = true) (rd rs1 : Reg) : exec (.imnextu rd rs1) s =
    .next ((s.setNat rd (leastAbove (iunit s.im) s.im (s.s64 rs1).toNat)).setCode 0) := by
  rw [exec, execImnextu, hv]
  rfl

theorem im_lt (s : State) : s.im < 2 ^ 63 := by
  have := BitVec.toInt_lt (x := s.imod)
  rw [State.im]
  omega

theorem toNat_imod_eq_im {s : State} (h : 0 < s.imod.toInt) : s.imod.toNat = s.im := by
  have htoInt := BitVec.toInt_eq_toNat_cond s.imod
  rw [State.im]
  split at htoInt <;> omega

/-- Settles O46: the search meets every number above the operand that can be a unit, in order. -/
theorem nextUnits : Obligations.NextUnits := by
  intro s rd rs1
  refine ⟨fun hv hm0 => ?_, fun hv hpos => ?_⟩
  · have h64 := (reduced_result s.pmod.isLt (leastAbove_lt (test := punit s.pm) (p := s.u64 rs1)
      (Nat.two_pow_pos (deg s.pm)))).1
    have hP : ∀ v, (s.u64 rs1 < v ∧ PolyUnit s.pm v) ↔ s.u64 rs1 < v ∧ v < 2 ^ deg s.pm ∧ punit s.pm v = true :=
      fun v => and_congr_right fun hlt => by rw [polyUnit_iff, and_iff_right (by omega)]
    exact ⟨_, h64, execPmnextu_of_valid hv rd rs1,
      (leastAbove_spec hP).imp_right (And.imp_right fun hnone v hlt hu => hnone v ⟨hlt, hu⟩)⟩
  · have him := natCast_im hpos
    have hlt := leastAbove_lt (test := iunit s.im) (bound := s.im) (p := (s.s64 rs1).toNat) (by omega)
    have hP : ∀ v : Nat, (s.s64 rs1 < (v : Int) ∧ IntUnit s.im v) ↔
        (s.s64 rs1).toNat < v ∧ v < s.im ∧ iunit s.im v = true := fun v => by
      rw [intUnit_iff, and_left_comm, ← and_assoc]
      exact and_congr_left' (by omega)
    rw [toNat_imod_eq_im hpos]
    exact ⟨_, hlt.trans (im_lt s), execImnextu_of_valid hv rd rs1,
      (leastAbove_spec hP).imp_right (And.imp_right fun hnone v hlt hu => hnone v ⟨hlt, hu⟩)⟩

/-! ## PMSETMOD and IMSETMOD -/

section
variable {s : State} {rs1 : Reg}

theorem execPmsetmod_of_zero (h : s.get rs1 = 0) :
    exec (.pmsetmod rs1) s = .next (raise .construct (s.setPmodv false)) := by
  have hu : s.u64 rs1 = 0 := congrArg BitVec.toNat h
  rw [exec, execPmsetmod, if_pos hu, finish_fails]

theorem execPmsetmod_of_ne_zero (h : s.get rs1 ≠ 0) :
    exec (.pmsetmod rs1) s = .next (({ s with pmod := s.get rs1 }.setPmodv true).setCode 0) := by
  have hu : s.u64 rs1 ≠ 0 := fun h0 => h (BitVec.eq_of_toNat_eq h0)
  rw [exec, execPmsetmod, if_neg hu, finish_ok]

theorem execImsetmod_of_nonpos (h : s.s64 rs1 ≤ 0) :
    exec (.imsetmod rs1) s = .next (raise .construct (s.setImodv false)) := by
  rw [exec, execImsetmod, if_pos h, finish_fails]

theorem execImsetmod_of_pos (h : 0 < s.s64 rs1) :
    exec (.imsetmod rs1) s = .next (({ s with imod := s.get rs1 }.setImodv true).setCode 0) := by
  rw [exec, execImsetmod, if_neg (not_le.mpr h), finish_ok]

end

/-- Settles O42: the construction fails for the words that are no modulus, and keeps every other. -/
theorem setModulus : Obligations.SetModulus := fun _ _ =>
  ⟨execPmsetmod_of_zero, execPmsetmod_of_ne_zero, execImsetmod_of_nonpos, execImsetmod_of_pos⟩

end Sys2Proof.Machine
end

section
/-! PROOFS. The greatest common divisor, the least common multiple and the cofactors of the three-row loop over the
integers (44_intarith.md R210 to R212, R220 to R223). -/

namespace Sys2Proof.Machine

/-! ## Integer results -/

theorem needInt63_of_lt {n : Nat} (h : n < 2 ^ 63) (k : Result) : needInt63 n k = k := if_neg (not_le.mpr h)

theorem needInt63_of_le {n : Nat} (h : 2 ^ 63 ≤ n) (k : Result) : needInt63 n k = fails .overflow := if_pos h

/-! ## IGCD and ILCM -/

/-- ilcm is the least common multiple (R212). -/
theorem ilcm_eq (a b : Int) : ilcm a b = Int.lcm a b := by
  rw [ilcm]
  split
  next h => exact (Int.lcm_eq_zero_iff.mpr h).symm
  next h =>
    rw [igcd_eq, Nat.div_mul_right_comm (Int.gcd_dvd_natAbs_left a b)]
    rfl

/-- Settles O47: Euclid's loop gives the greatest common divisor, and R212 the least common multiple from it. -/
theorem intGcdLcm : Obligations.IntGcdLcm := by
  intro s rd rs1 rs2
  simp only [exec, execIgcd, execIlcm, igcd_eq, ilcm_eq]
  refine ⟨fun h => ?_, fun h => ?_, fun h => ?_, fun h => ?_⟩
  · rw [needInt63_of_lt h, finish_ok]
  · rw [needInt63_of_le h, finish_fails]
  · rw [needInt63_of_lt h, finish_ok]
  · rw [needInt63_of_le h, finish_fails]

/-! ## IXGCD -/

/-- What the loop of R211 keeps of one cofactor column (c0, c1) beside the remainders r0 and r1, `C` being the operand
of the other column: the signs alternate, the magnitudes grow as the remainders fall, and at the end the last cofactor
is at most half of the next. -/
structure CofactorColumn (C r0 r1 : Nat) (c0 c1 : Int) : Prop where
  signs : c0 * c1 ≤ 0
  total : c1.natAbs * r0 + c0.natAbs * r1 = C
  last : r1 = 0 → 2 * c0.natAbs ≤ c1.natAbs

/-- Cofactors of opposite signs add up in magnitude. -/
theorem natAbs_sub_mul {c0 c1 : Int} (h : c0 * c1 ≤ 0) (q : Nat) :
    (c0 - q * c1).natAbs = c0.natAbs + q * c1.natAbs := by
  have hq : (0 : Int) ≤ q := by omega
  rcases mul_nonpos_iff.mp h with ⟨h0, h1⟩ | ⟨h0, h1⟩
  · have := mul_nonpos_of_nonneg_of_nonpos hq h1
    zify
    rw [abs_of_nonneg h0, abs_of_nonpos h1, abs_of_nonneg (by omega)]
    ring
  · have := mul_nonneg hq h1
    zify
    rw [abs_of_nonpos h0, abs_of_nonneg h1, abs_of_nonpos (by omega)]
    ring

/-- A round of the loop keeps the column: between different remainders the quotient of an exact division is at
least 2. -/
theorem CofactorColumn.round {C r0 r1 : Nat} {c0 c1 : Int} (h : CofactorColumn C r0 r1 c0 c1) (h0 : r0 ≠ 0)
    (h01 : r0 ≠ r1) : CofactorColumn C r1 (r0 % r1) c1 (c0 - (r0 / r1 : Nat) * c1) := by
  obtain ⟨hsigns, htotal, -⟩ := h
  have hdiv := Nat.div_add_mod r0 r1
  refine ⟨?_, ?_, fun hr => ?_⟩
  · have : 0 ≤ ((r0 / r1 : Nat) : Int) * (c1 * c1) := mul_nonneg (Int.natCast_nonneg _) (mul_self_nonneg c1)
    linarith
  · rw [natAbs_sub_mul hsigns, ← htotal]
    nth_rw 3 [← hdiv]
    ring
  · rw [natAbs_sub_mul hsigns]
    rw [hr] at hdiv
    have hq : 2 ≤ r0 / r1 := (Nat.two_le_iff _).mpr
      ⟨fun e => by rw [e] at hdiv; omega, fun e => by rw [e] at hdiv; omega⟩
    exact (Nat.mul_le_mul_right _ hq).trans (Nat.le_add_left _ _)

/-- The end of the loop, where the second remainder is 0. -/
theorem CofactorColumn.le {C r0 : Nat} {c0 c1 : Int} (h : CofactorColumn C r0 0 c0 c1) : 2 * r0 * c0.natAbs ≤ C := by
  rw [← h.total, mul_zero, add_zero, mul_comm 2, mul_assoc, mul_comm c1.natAbs]
  exact Nat.mul_le_mul_left _ (h.last rfl)

/-- The cofactors the loop ends with. -/
theorem ixgcdLoop_cofactors_le {A B n r0 r1 : Nat} {s0 t0 s1 t1 : Int} (hn : r1 < n) (h0 : r0 ≠ 0) (h01 : r0 ≠ r1)
    (hs : CofactorColumn B r0 r1 s0 s1) (ht : CofactorColumn A r0 r1 t0 t1) :
    let g := ixgcdLoop n r0 s0 t0 r1 s1 t1
    2 * g.1 * g.2.1.natAbs ≤ B ∧ 2 * g.1 * g.2.2.natAbs ≤ A := by
  induction n generalizing r0 s0 t0 r1 s1 t1 with
  | zero => omega
  | succ n ih =>
    rw [ixgcdLoop]
    split
    next h1 =>
      subst h1
      exact ⟨hs.le, ht.le⟩
    next h1 =>
      have hlt := Nat.mod_lt r0 (Nat.pos_of_ne_zero h1)
      have hrem : r0 - r0 / r1 * r1 = r0 % r1 := (Nat.mod_eq_sub_div_mul).symm
      simp only [hrem]
      exact ih (by omega) h1 hlt.ne' (hs.round h0 h01) (ht.round h0 h01)

theorem natAbs_signOf_mul (a z : Int) : (signOf a * z).natAbs = z.natAbs := by
  rw [signOf]
  split <;> omega

/-- 2g|u| is at most |b| and 2g|v| at most |a| where the operands are not 0 and of different magnitude (R211). -/
theorem ixgcd_cofactors_le {a b : Int} (ha : a ≠ 0) (hb : b ≠ 0) (hab : a.natAbs ≠ b.natAbs) :
    2 * (ixgcd a b).1 * (ixgcd a b).2.1.natAbs ≤ b.natAbs ∧
      2 * (ixgcd a b).1 * (ixgcd a b).2.2.natAbs ≤ a.natAbs := by
  simp only [ixgcd, natAbs_signOf_mul]
  exact ixgcdLoop_cofactors_le (Nat.lt_succ_self _) (Int.natAbs_ne_zero.mpr ha) hab
    ⟨by omega, by simp, fun h => absurd (Int.natAbs_eq_zero.mp h) hb⟩
    ⟨by omega, by simp, fun h => absurd (Int.natAbs_eq_zero.mp h) hb⟩

theorem ixgcd_of_right_zero (a : Int) : ixgcd a 0 = (a.natAbs, signOf a, 0) := by
  simp [ixgcd, ixgcdLoop]

/-- Where the second operand divides the first it is the result, as in the cases a = 0 and |a| = |b|. -/
theorem ixgcd_of_dvd {a b : Int} (hb : b ≠ 0) (h : b.natAbs ∣ a.natAbs) : ixgcd a b = (b.natAbs, 0, signOf b) := by
  obtain ⟨n, hn⟩ := Nat.exists_eq_succ_of_ne_zero (Int.natAbs_ne_zero.mpr hb)
  have hstop : a.natAbs - a.natAbs / b.natAbs * b.natAbs = 0 := by rw [Nat.div_mul_cancel h, Nat.sub_self]
  have hloop : ∀ s t : Int, ixgcdLoop b.natAbs b.natAbs 0 1 0 s t = (b.natAbs, 0, 1) := fun s t => by
    rw [hn, ixgcdLoop, if_pos rfl]
  simp only [ixgcd, ixgcdLoop, if_neg (Int.natAbs_ne_zero.mpr hb), hstop, hloop, mul_zero, mul_one]

/-- The cofactors of signed words are signed words. -/
theorem ixgcd_cofactors_lt {a b : Int} (ha : a.natAbs ≤ 2 ^ 63) (hb : b.natAbs ≤ 2 ^ 63) :
    (ixgcd a b).2.1.natAbs < 2 ^ 63 ∧ (ixgcd a b).2.2.natAbs < 2 ^ 63 := by
  have hsign : ∀ z, (signOf z).natAbs < 2 ^ 63 := fun z => by
    rw [signOf]
    split <;> decide
  rcases eq_or_ne b 0 with rfl | hb0
  · rw [ixgcd_of_right_zero]
    exact ⟨hsign a, Nat.two_pow_pos 63⟩
  by_cases hd : b.natAbs ∣ a.natAbs
  · rw [ixgcd_of_dvd hb0 hd]
    exact ⟨Nat.two_pow_pos 63, hsign b⟩
  have ha0 : a ≠ 0 := fun e => hd (by simp [e])
  obtain ⟨hu, hv⟩ := ixgcd_cofactors_le ha0 hb0 fun e => hd (by rw [e])
  have hg : 0 < (ixgcd a b).1 := (ixgcd_spec a b).1 ▸ Int.gcd_pos_of_ne_zero_left b ha0
  have hfit : ∀ z C : Nat, 2 * (ixgcd a b).1 * z ≤ C → C ≤ 2 ^ 63 → z < 2 ^ 63 := fun z C hz hC => by
    have : 1 * z ≤ (ixgcd a b).1 * z := Nat.mul_le_mul_right z hg
    rw [mul_assoc] at hz
    omega
  exact ⟨hfit _ _ hu hb, hfit _ _ hv ha⟩

theorem natAbs_s64_le (s : State) (r : Reg) : (s.s64 r).natAbs ≤ 2 ^ 63 := by
  have := s64_lt s r
  have := le_s64 s r
  omega

/-- Settles O48: the rows of the loop of R211 are combinations of the operands, and their cofactors are bounded. -/
theorem intBezout : Obligations.IntBezout := by
  intro s rd rd2 rd3 rs1 rs2 a b g sign
  obtain ⟨hg, hcomb⟩ := ixgcd_spec a b
  obtain ⟨hu, hv⟩ := ixgcd_cofactors_lt (a := a) (b := b) (natAbs_s64_le s rs1) (natAbs_s64_le s rs2)
  have hexec : exec (.ixgcd rd rd2 rd3 rs1 rs2) s = finish s (needInt63 g
      (.ok (((s.setNat rd g).setInt rd2 (ixgcd a b).2.1).setInt rd3 (ixgcd a b).2.2))) := by
    rw [show g = (ixgcd a b).1 from hg.symm]
    rfl
  rw [hexec]
  refine ⟨fun h => ?_, fun h => ⟨_, _, hcomb, by omega, by omega, by omega, by omega, fun h0 => ?_, fun hb h => ?_,
    fun ha hb hab => ?_, ?_⟩⟩
  · rw [needInt63_of_le h, finish_fails]
  · rw [h0, ixgcd_of_right_zero]
    exact ⟨rfl, rfl⟩
  · have hd : b.natAbs ∣ a.natAbs := by
      rcases h with h | h <;> simp [h]
    rw [ixgcd_of_dvd hb hd]
    exact ⟨rfl, rfl⟩
  · rw [← show (ixgcd a b).1 = g from hg]
    exact ixgcd_cofactors_le ha hb hab
  · rw [needInt63_of_lt h, finish_ok]

end Sys2Proof.Machine
end

section
/-! PROOFS. Totient, factorial, factorisation and divisors of an integer (44_intarith.md R213, R216 to R219, R224,
R227 to R230). -/

namespace Sys2Proof.Machine

/-! ## IPHI and ITOTIENT -/

/-- phi is Euler's totient (R213). -/
theorem phi_eq (n : Nat) : phi n = Nat.totient n := by
  rw [phi, countCoprime_eq, ← Nat.filter_coprime_Ico_eq_totient n 1, add_comm 1 n, Finset.Ico_add_one_right_eq_Icc]
  simp only [Nat.coprime_comm]

/-- The power of the first prime and the product of the others are coprime. -/
theorem IsIntFactors.tail {p e n : Nat} {t : FacList} (h : IsIntFactors n ((p, e) :: t)) :
    ∃ c, IsIntFactors c t ∧ n = p ^ e * c ∧ Nat.Coprime (p ^ e) c := by
  obtain ⟨hasc, hprime, hprod⟩ := h
  rw [List.map_cons, List.pairwise_cons] at hasc
  rw [List.forall_mem_cons] at hprime
  rw [List.map_cons, List.prod_cons] at hprod
  obtain ⟨⟨hp, -⟩, hrest⟩ := hprime
  refine ⟨_, ⟨hasc.2, hrest, rfl⟩, hprod.symm, Nat.Coprime.pow_left e (hp.coprime_iff_not_dvd.mpr fun hd => ?_)⟩
  obtain ⟨_, hmem, hd⟩ := hp.prime.dvd_prod_iff.mp hd
  obtain ⟨b, hb, rfl⟩ := List.mem_map.mp hmem
  have heq := (Nat.prime_dvd_prime_iff_eq hp (hrest b hb).1).mp (hp.dvd_of_dvd_pow hd)
  exact (hasc.1 b.1 (List.mem_map_of_mem hb)).ne heq

/-- The product of R219 over a factorisation is Euler's totient. -/
theorem totient_of_isIntFactors {n : Nat} {l : FacList} (h : IsIntFactors n l) :
    Nat.totient n = (l.map fun p => p.1 ^ (p.2 - 1) * (p.1 - 1)).prod := by
  induction l generalizing n with
  | nil =>
    obtain rfl : 1 = n := h.2.2
    exact Nat.totient_one
  | cons p t ih =>
    obtain ⟨p, e⟩ := p
    obtain ⟨c, hc, rfl, hcop⟩ := h.tail
    obtain ⟨hp, he⟩ := h.2.1 (p, e) (by simp)
    rw [Nat.totient_mul hcop, Nat.totient_prime_pow hp he, ih hc, List.map_cons, List.prod_cons]

/-- itotient is Euler's totient (R219). -/
theorem itotient_eq {n : Nat} (hn : 0 < n) : itotient n = Nat.totient n :=
  (totient_of_isIntFactors (isIntFactors_factorNat hn)).symm

/-- Settles O49: the count of R213 and the product of R219 are both Euler's totient. -/
theorem intTotients : Obligations.IntTotients := by
  intro s rd rs1
  refine ⟨fun h => ?_, fun h => ?_⟩
  · simp only [exec, execIphi, execItotient, if_pos h, finish_fails, and_self]
  · have hn : 0 < (s.s64 rs1).toNat := by omega
    simp only [exec, execIphi, execItotient, if_neg (not_le.mpr h), phi_eq, itotient_eq hn, finish_ok, and_self]

/-! ## IFACT -/

/-- ifactorial is the factorial (R216). -/
theorem ifactorial_eq (n : Nat) : ifactorial n = n.factorial := by
  induction n with
  | zero => rfl
  | succ n ih => rw [ifactorial, ih, Nat.factorial_succ]

/-- Settles O51: the product of R216 is the factorial. -/
theorem intFactorial : Obligations.IntFactorial := by
  intro s rd rs1
  simp only [exec, execIfact, ifactorial_eq]
  refine ⟨fun h => ?_, fun h => ?_, fun h0 h => ?_⟩
  · rw [if_pos h, finish_fails]
  · rw [if_neg (by omega), if_pos h, finish_fails]
  · rw [if_neg (not_lt.mpr h0), if_neg (not_lt.mpr h), finish_ok]

/-! ## IFACTOR -/

theorem signOf_eq_sign {n : Int} (h : n ≠ 0) : signOf n = n.sign := by
  rw [signOf]
  split
  next hneg => exact (Int.sign_eq_neg_one_of_neg hneg).symm
  next hpos => exact (Int.sign_eq_one_of_pos (by omega)).symm

theorem execIfactor_of_ne_zero {rs1 : Reg} {s : State} (h : s.s64 rs1 ≠ 0) : exec (.ifactor rs1) s =
    finish s (s.storeFactors 2 (some (BitVec.ofInt 64 (s.s64 rs1).sign)) (factorNat (s.s64 rs1).natAbs)) := by
  rw [← signOf_eq_sign h, exec, execIfactor]
  exact congrArg (finish s) (if_neg h)

/-- Settles O52: trial division gives the prime factorisation of the magnitude, and its list fits FAC. -/
theorem intFactorisation : Obligations.IntFactorisation := by
  intro s rs1 hw
  refine ⟨fun h => ?_, fun h => ?_⟩
  · simp only [exec, execIfactor, if_pos h, finish_fails]
  · have hfac := isIntFactors_factorNat (Int.natAbs_pos.mpr h)
    have hstore := hfac.storable (natAbs_s64_le s rs1)
    obtain ⟨mb, mm, hh, he⟩ := exists_storeFactors hw hstore 2 (some (BitVec.ofInt 64 (s.s64 rs1).sign))
    refine ⟨_, mb, mm, hfac, hstore.length, hh, ?_⟩
    rw [execIfactor_of_ne_zero h, he, finish_ok]
    rfl

/-! ## The divisors in ascending order -/

theorem mem_timesPowers {p d e x : Nat} : x ∈ timesPowers p d e ↔ ∃ i ≤ e, x = d * p ^ i := by
  induction e with
  | zero => simp [timesPowers]
  | succ e ih =>
    simp only [timesPowers, List.mem_append, ih, List.mem_singleton, Nat.le_add_one_iff, or_and_right, exists_or,
      exists_eq_left]

/-- A divisor of a product of prime powers is a power of the first prime times a divisor of the rest. -/
theorem dvd_listProd_cons {p : Nat × Nat} {t : FacList} (hp : p.1.Prime) {k : Nat} :
    k ∣ listProd id (p :: t) ↔ ∃ i ≤ p.2, ∃ j, j ∣ listProd id t ∧ k = p.1 ^ i * j := by
  have hcons : listProd id (p :: t) = p.1 ^ p.2 * listProd id t := rfl
  simp only [hcons, Nat.dvd_mul, Nat.dvd_prime_pow hp]
  constructor
  · rintro ⟨_, j, ⟨i, hi, rfl⟩, hj, rfl⟩
    exact ⟨i, hi, j, hj, rfl⟩
  · rintro ⟨i, hi, j, hj, rfl⟩
    exact ⟨_, j, ⟨i, hi, rfl⟩, hj, rfl⟩

/-- Extending every number of a list by the prime powers of a factor list: the products with the divisors of what the
factor list stands for. -/
theorem mem_foldl_timesPowers {l : FacList} (h : Ordered Nat.Prime l) {ds : List Nat} {x : Nat} :
    x ∈ l.foldl (fun ds p => ds.flatMap fun d => timesPowers p.1 d p.2) ds ↔
      ∃ d ∈ ds, ∃ k, k ∣ listProd id l ∧ x = d * k := by
  obtain ⟨-, hprime⟩ := h
  induction l generalizing ds with
  | nil => simp [listProd]
  | cons p t ih =>
    rw [List.forall_mem_cons] at hprime
    rw [List.foldl_cons, ih hprime.2]
    simp only [List.mem_flatMap, mem_timesPowers]
    constructor
    · rintro ⟨_, ⟨d, hd, i, hi, rfl⟩, k, hk, rfl⟩
      exact ⟨d, hd, p.1 ^ i * k, (dvd_listProd_cons hprime.1.1).mpr ⟨i, hi, k, hk, rfl⟩, mul_assoc _ _ _⟩
    · rintro ⟨d, hd, k, hk, rfl⟩
      obtain ⟨i, hi, j, hj, rfl⟩ := (dvd_listProd_cons hprime.1.1).mp hk
      exact ⟨d * p.1 ^ i, ⟨d, hd, i, hi, rfl⟩, j, hj, (mul_assoc _ _ _).symm⟩

theorem insertAsc_eq (a : Nat) (l : List Nat) : insertAsc a l = l.orderedInsert (· ≤ ·) a := by
  induction l with
  | nil => rfl
  | cons b t ih => rw [insertAsc, List.orderedInsert, ih]

theorem foldr_insertAsc_eq (l : List Nat) : l.foldr insertAsc [] = l.insertionSort (· ≤ ·) := by
  induction l with
  | nil => rfl
  | cons a t ih => rw [List.foldr_cons, ih, insertAsc_eq, List.insertionSort_cons]

theorem pairwise_divisorsAsc (n : Nat) : (divisorsAsc n).Pairwise (· ≤ ·) := by
  rw [divisorsAsc, foldr_insertAsc_eq]
  exact List.pairwise_insertionSort _ _

/-- The list of R218 holds the positive divisors. -/
theorem mem_divisorsAsc {n d : Nat} (hn : 0 < n) : d ∈ divisorsAsc n ↔ d ∣ n := by
  obtain ⟨hord, hprod⟩ := isIntFactors_iff.mp (isIntFactors_factorNat hn)
  rw [divisorsAsc, foldr_insertAsc_eq, List.mem_insertionSort, mem_foldl_timesPowers hord, hprod]
  simp

/-- The first entry of an ascending list that passes a test is the least that does. -/
theorem isLeast_of_find?_eq_some {l : List Nat} (h : l.Pairwise (· ≤ ·)) {test : Nat → Bool} {d : Nat}
    (hd : l.find? test = some d) : IsLeast {k | k ∈ l ∧ test k = true} d := by
  obtain ⟨htest, before, after, rfl, hbefore⟩ := List.find?_eq_some_iff_append.mp hd
  refine ⟨⟨by simp, htest⟩, fun k ⟨hk, hkt⟩ => ?_⟩
  rcases List.mem_append.mp hk with hk | hk
  · have hk' := hbefore k hk
    rw [hkt] at hk'
    contradiction
  · rcases List.mem_cons.mp hk with rfl | hk
    · exact le_rfl
    · exact List.rel_of_pairwise_cons (List.pairwise_append.mp h).2.1 hk

/-- nextdiv answers the least divisor above the previous one (R218). -/
theorem isLeast_of_nextdiv {n p : Int} (hn : n ≠ 0) {d : Nat} (h : nextdiv n p = some d) :
    IsLeast {k : Nat | p < (k : Int) ∧ 1 ≤ k ∧ k ∣ n.natAbs} d := by
  have hpos : 0 < n.natAbs := Int.natAbs_pos.mpr hn
  have hset : {k : Nat | k ∈ divisorsAsc n.natAbs ∧ decide (p < (k : Int)) = true} =
      {k : Nat | p < (k : Int) ∧ 1 ≤ k ∧ k ∣ n.natAbs} := by
    ext k
    simp only [Set.mem_ofPred_eq, mem_divisorsAsc hpos, decide_eq_true_eq]
    exact ⟨fun ⟨hd, hlt⟩ => ⟨hlt, Nat.pos_of_dvd_of_pos hd hpos, hd⟩, fun ⟨hlt, _, hd⟩ => ⟨hd, hlt⟩⟩
  exact hset ▸ isLeast_of_find?_eq_some (pairwise_divisorsAsc _) h

/-- nextdiv answers none exactly where the previous divisor is at least the magnitude (R218). -/
theorem nextdiv_eq_none_iff {n p : Int} (hn : n ≠ 0) : nextdiv n p = none ↔ (n.natAbs : Int) ≤ p := by
  have hpos : 0 < n.natAbs := Int.natAbs_pos.mpr hn
  simp only [nextdiv, List.find?_eq_none, mem_divisorsAsc hpos, decide_eq_true_eq, not_lt]
  refine ⟨fun h => h _ dvd_rfl, fun h d hd => ?_⟩
  have := Nat.le_of_dvd hpos hd
  omega

/-! ## IDIVNEXT -/

section
variable {rd rs1 rs2 : Reg} {s : State} (hn : s.s64 rs1 ≠ 0)
include hn

theorem execIdivnext_of_none (h : nextdiv (s.s64 rs1) (s.s64 rs2) = none) :
    exec (.idivnext rd rs1 rs2) s = .next ((s.setNat rd 0).setCode 0) := by
  simp only [exec, execIdivnext, if_neg hn, h, finish_ok]

theorem execIdivnext_of_some {d : Nat} (h : nextdiv (s.s64 rs1) (s.s64 rs2) = some d) :
    exec (.idivnext rd rs1 rs2) s = .next (if d < 2 ^ 63 then (s.setNat rd d).setCode 0 else raise .overflow s) := by
  simp only [exec, execIdivnext, if_neg hn, h]
  split
  next hlt => rw [needInt63_of_lt hlt, finish_ok]
  next hge => rw [needInt63_of_le (not_lt.mp hge), finish_fails]

end

/-- Settles O53: the list of R218 holds the divisors in ascending order, the magnitude the last of them. -/
theorem intNextDivisor : Obligations.IntNextDivisor := by
  intro s rd rs1 rs2
  refine ⟨fun h => ?_, fun h hle => execIdivnext_of_none h ((nextdiv_eq_none_iff h).mpr hle), fun h hlt => ?_⟩
  · simp only [exec, execIdivnext, if_pos h, finish_fails]
  · obtain ⟨d, hd⟩ := Option.ne_none_iff_exists'.mp (mt (nextdiv_eq_none_iff h).mp (not_le.mpr hlt))
    exact ⟨d, isLeast_of_nextdiv h hd, execIdivnext_of_some h hd⟩

end Sys2Proof.Machine
end

section
/-! PROOFS. Powers and inverses modulo an integer (44_intarith.md R214, R215, R225, R226) and the powers of the residue
ring of IMSETMOD (45_intmod.md R246, R248). -/

namespace Sys2Proof.Machine

/-! ## Powers and inverses of residues -/

section
variable {m : Nat} (hm : 0 < m)
include hm

/-- imodexp is the power modulo m (R214). -/
theorem imodexp_eq (x : Int) (e : Nat) : (imodexp m x e : Int) = x ^ e % m := by
  rw [imodexp, powLoop_mod _ _ _ _ _ le_rfl (Nat.mod_mod 1 m), Nat.mul_mod, Nat.mod_mod, ← Nat.mul_mod, one_mul,
    Int.natCast_mod, Int.natCast_pow, imodm_eq hm]
  exact (Int.mod_modEq x m).pow e

theorem imodm_modEq (x : Int) : (imodm m x : Int) ≡ x [ZMOD m] := by
  rw [imodm_eq hm]
  exact Int.mod_modEq x m

theorem imodm_lt (x : Int) : imodm m x < m := by
  have := imodm_eq hm x
  have := Int.emod_lt_of_pos x (by omega : (0 : Int) < m)
  omega

/-- The greatest common divisor that imodrecip looks at is the operand's own. -/
theorem ixgcd_imodm_fst (x : Int) : (ixgcd (imodm m x) m).1 = Int.gcd x m := by
  rw [(ixgcd_spec _ _).1, imodm_eq hm, Int.gcd_emod]

theorem imodrecip_eq_none {x : Int} (h : Int.gcd x m ≠ 1) : imodrecip m x = none :=
  if_pos (by rwa [ixgcd_imodm_fst hm])

/-- imodrecip answers the reduced inverse of a unit, the cofactor of the operand (R215). -/
theorem exists_imodrecip_eq_some {x : Int} (h : Int.gcd x m = 1) :
    ∃ r < m, (r : Int) * x ≡ 1 [ZMOD m] ∧ imodrecip m x = some r := by
  have hfst := (ixgcd_imodm_fst hm x).trans h
  obtain ⟨hg, hcomb⟩ := ixgcd_spec (imodm m x) m
  rw [← hg, hfst] at hcomb
  have hcofactor : (ixgcd (imodm m x) m).2.1 * imodm m x ≡ 1 [ZMOD m] :=
    (Int.modEq_iff_dvd.mpr ⟨(ixgcd (imodm m x) m).2.2, by push_cast at hcomb; linear_combination -hcomb⟩)
  refine ⟨_, imodm_lt hm (ixgcd (imodm m x) m).2.1, ?_, if_neg (not_not.mpr hfst)⟩
  exact ((imodm_modEq hm _).mul (imodm_modEq hm x).symm).trans hcofactor

/-- A command that needs the inverse of the residue of a unit goes on with the reduced inverse of the unit. -/
theorem exists_needInverse_imodrecip_eq {a : Int} (h : Int.gcd a m = 1) :
    ∃ r < m, (r : Int) * a ≡ 1 [ZMOD m] ∧
      ∀ k, needInverse (imodrecip m (imodm m a)) (imodm m a) k = k r := by
  obtain ⟨r, hr, hinv, hsome⟩ := exists_imodrecip_eq_some hm (x := imodm m a)
    (by rwa [imodm_eq hm, Int.gcd_emod])
  exact ⟨r, hr, ((imodm_modEq hm a).symm.mul_left _).trans hinv, fun k => by rw [hsome]; rfl⟩

/-- A command that needs the inverse of the residue of a non-unit fails, with the error the residue calls for. -/
theorem needInverse_imodrecip_of_not_unit {a : Int} (h : Int.gcd a m ≠ 1) (k : Nat → Result) :
    needInverse (imodrecip m (imodm m a)) (imodm m a) k = if a % m = 0 then fails .divzero else fails .notinv := by
  rw [imodrecip_eq_none hm (by rwa [imodm_eq hm, Int.gcd_emod]), ← imodm_eq hm]
  simp only [Int.natCast_eq_zero]
  rfl

end

/-! ## IMODEXP and IMODRECIP -/

theorem execImod_of_zero {s : State} {rs3 : Reg} (h : s.s64 rs3 = 0) (rd rs1 rs2 : Reg) :
    exec (.imodexp rd rs1 rs2 rs3) s = .next (raise .divzero s) ∧
      exec (.imodrecip rd rs1 rs3) s = .next (raise .divzero s) := by
  simp only [exec, execImodexp, execImodrecip, if_pos h, finish_fails, and_self]

theorem execImod_of_neg {s : State} {rs3 : Reg} (h : s.s64 rs3 < 0) (rd rs1 rs2 : Reg) :
    exec (.imodexp rd rs1 rs2 rs3) s = .next (raise .undef s) ∧
      exec (.imodrecip rd rs1 rs3) s = .next (raise .undef s) := by
  simp only [exec, execImodexp, execImodrecip, if_neg h.ne, if_pos h, finish_fails, and_self]

section
variable {s : State} {rs1 rs2 rs3 : Reg} (hm : 0 < s.s64 rs3) (rd : Reg)
include hm

theorem execImodexp_of_neg (he : s.s64 rs2 < 0) :
    exec (.imodexp rd rs1 rs2 rs3) s = .next (raise .negexp s) := by
  simp only [exec, execImodexp, if_neg hm.ne', if_neg hm.not_gt, if_pos he, finish_fails]

theorem execImodexp_of_nonneg (he : 0 ≤ s.s64 rs2) : exec (.imodexp rd rs1 rs2 rs3) s =
    .next ((s.setNat rd (imodexp (s.s64 rs3).toNat (s.s64 rs1) (s.s64 rs2).toNat)).setCode 0) := by
  simp only [exec, execImodexp, if_neg hm.ne', if_neg hm.not_gt, if_neg he.not_gt, finish_ok]

theorem execImodrecip_of_none (h : imodrecip (s.s64 rs3).toNat (s.s64 rs1) = none) :
    exec (.imodrecip rd rs1 rs3) s = .next (raise .notinv s) := by
  simp only [exec, execImodrecip, if_neg hm.ne', if_neg hm.not_gt, h, finish_fails]

theorem execImodrecip_of_some {r : Nat} (h : imodrecip (s.s64 rs3).toNat (s.s64 rs1) = some r) :
    exec (.imodrecip rd rs1 rs3) s = .next ((s.setNat rd r).setCode 0) := by
  simp only [exec, execImodrecip, if_neg hm.ne', if_neg hm.not_gt, h, finish_ok]

end

/-- Settles O50: square-and-multiply gives the power, and the cofactor of a unit is its inverse. -/
theorem intModularArithmetic : Obligations.IntModularArithmetic := by
  intro s rd rs1 rs2 rs3 x e m
  have hcast : 0 < m → (m.toNat : Int) = m := fun hm => Int.toNat_of_nonneg hm.le
  have hpos : 0 < m → 0 < m.toNat := fun hm => by omega
  refine ⟨fun h => execImod_of_zero h rd rs1 rs2, fun h => execImod_of_neg h rd rs1 rs2,
    fun hm he => execImodexp_of_neg hm rd he, fun hm he => ?_, fun hm hg => ?_, fun hm hg => ?_⟩
  · rw [execImodexp_of_nonneg hm rd he, setNat_eq_setInt (imodexp_eq (hpos hm) _ _), hcast hm]
  · rw [← hcast hm] at hg
    exact execImodrecip_of_none hm rd (imodrecip_eq_none (hpos hm) hg)
  · rw [← hcast hm] at hg
    obtain ⟨r, hr, hinv, hsome⟩ := exists_imodrecip_eq_some (hpos hm) hg
    rw [hcast hm] at hinv
    exact ⟨r, by omega, by omega, hinv, execImodrecip_of_some hm rd hsome⟩

/-! ## IMPOW -/

section
variable {s : State} {rs1 rs2 : Reg} (hv : s.imodv = true) (rd : Reg)
include hv

theorem execImpow_of_valid : exec (.impow rd rs1 rs2) s = finish s
    (if s.iresidue rs1 = 0 ∧ s.s64 rs2 = 0 then fails .zerozero
    else if s.s64 rs2 < 0 then
      needInverse (imodrecip s.im (s.iresidue rs1)) (s.iresidue rs1) fun r =>
        .ok (s.setNat rd (imodexp s.im r (s.s64 rs2).natAbs))
    else .ok (s.setNat rd (imodexp s.im (s.iresidue rs1) (s.s64 rs2).natAbs))) := by
  rw [exec, execImpow, hv]
  rfl

theorem execImpow_of_zero (ha : s.iresidue rs1 = 0) (he : s.s64 rs2 = 0) :
    exec (.impow rd rs1 rs2) s = .next (raise .zerozero s) := by
  rw [execImpow_of_valid hv, if_pos ⟨ha, he⟩, finish_fails]

theorem execImpow_of_nonneg (he : 0 ≤ s.s64 rs2) (h0 : s.iresidue rs1 ≠ 0 ∨ s.s64 rs2 ≠ 0) :
    exec (.impow rd rs1 rs2) s =
      .next ((s.setNat rd (imodexp s.im (s.iresidue rs1) (s.s64 rs2).toNat)).setCode 0) := by
  have habs : (s.s64 rs2).natAbs = (s.s64 rs2).toNat := by omega
  rw [execImpow_of_valid hv, if_neg (by omega), if_neg (not_lt.mpr he), habs, finish_ok]

theorem execImpow_of_neg (he : s.s64 rs2 < 0) :
    exec (.impow rd rs1 rs2) s = finish s (needInverse (imodrecip s.im (imodm s.im (s.s64 rs1)))
      (imodm s.im (s.s64 rs1)) fun r => .ok (s.setNat rd (imodexp s.im r (s.s64 rs2).natAbs))) := by
  rw [execImpow_of_valid hv, if_neg (by omega), if_pos he]
  rfl

end

/-- Settles O56: square-and-multiply gives the power of the residue, or of its inverse for a negative exponent. -/
theorem intRingPower : Obligations.IntRingPower := by
  intro s rd rs1 rs2 hv hpos m a e
  have him : (s.im : Int) = m := natCast_im hpos
  have hm : 0 < s.im := by omega
  have hres : (s.iresidue rs1 : Int) = a % m := natCast_iresidue hpos rs1
  have hpow : ∀ x k, (imodexp s.im x k : Int) = x ^ k % m := fun x k => him ▸ imodexp_eq hm x k
  refine ⟨fun ha he => execImpow_of_zero hv rd (by omega) he, fun he h0 => ?_, fun he hu => ?_, fun he hu h0 => ?_,
    fun he hu h0 => ?_⟩
  · rw [execImpow_of_nonneg hv rd he (h0.imp_left fun h => by omega), setNat_eq_setInt (hpow _ _), hres]
    exact congrArg (fun z => Host.Outcome.next ((s.setInt rd z).setCode 0)) ((Int.mod_modEq a m).pow e.toNat)
  · rw [← him] at hu
    obtain ⟨r, -, hinv, hgo⟩ := exists_needInverse_imodrecip_eq hm hu
    rw [him] at hinv
    have hone : (r : Int) ^ e.natAbs % m * a ^ e.natAbs ≡ 1 [ZMOD m] := by
      have hprod := hinv.pow e.natAbs
      rw [mul_pow, one_pow] at hprod
      exact ((Int.mod_modEq _ m).mul_right _).trans hprod
    refine ⟨_, Int.emod_nonneg _ hpos.ne', Int.emod_lt_of_pos _ hpos, hone, ?_⟩
    rw [execImpow_of_neg hv rd he, hgo, finish_ok, setNat_eq_setInt (hpow _ _)]
  · rw [← him] at hu h0
    rw [execImpow_of_neg hv rd he, needInverse_imodrecip_of_not_unit hm hu, if_pos h0, finish_fails]
  · rw [← him] at hu h0
    rw [execImpow_of_neg hv rd he, needInverse_imodrecip_of_not_unit hm hu, if_neg h0, finish_fails]

end Sys2Proof.Machine
end

section
/-! PROOFS. The inverse and the quotient in the residue ring of IMSETMOD (45_intmod.md R246, R247, R251). -/

namespace Sys2Proof.Machine

/-! ## IMRECIP and IMDIV -/

section
variable {s : State} (hv : s.imodv = true) (rd rs1 rs2 : Reg)
include hv

theorem execImrecip_of_valid : exec (.imrecip rd rs1) s = finish s (needInverse
    (imodrecip s.im (imodm s.im (s.s64 rs1))) (imodm s.im (s.s64 rs1)) fun r => .ok (s.setNat rd r)) := by
  rw [exec, execImrecip, hv]
  rfl

theorem execImdiv_of_valid : exec (.imdiv rd rs1 rs2) s = finish s (needInverse
    (imodrecip s.im (imodm s.im (s.s64 rs2))) (imodm s.im (s.s64 rs2)) fun r =>
      .ok (s.setNat rd (s.iresidue rs1 * r % s.im))) := by
  rw [exec, execImdiv, hv]
  rfl

end

/-- The product of the dividend with an inverse of the divisor, times the divisor, is the dividend again (R246). -/
theorem mul_inverse_emod_mul_modEq {m a b r : Int} (hinv : r * b ≡ 1 [ZMOD m]) :
    a % m * r % m * b ≡ a [ZMOD m] :=
  calc a % m * r % m * b ≡ a % m * r * b [ZMOD m] := (Int.mod_modEq _ m).mul_right b
    _ = a % m * (r * b) := mul_assoc _ _ _
    _ ≡ a * 1 [ZMOD m] := (Int.mod_modEq a m).mul hinv
    _ = a := mul_one a

/-- Settles O55: the cofactor of the operand is its inverse, and the product with the inverse is the quotient. -/
theorem intInverse : Obligations.IntInverse := by
  intro s rd rs1 rs2 hv hpos m a b
  have him : (s.im : Int) = m := natCast_im hpos
  have hm : 0 < s.im := by omega
  rw [execImrecip_of_valid hv, execImdiv_of_valid hv]
  refine ⟨fun hu => ?_, fun hu h0 => ?_, fun hu h0 => ?_⟩
  · rw [← him] at hu
    obtain ⟨r, hr, hinv, hgo⟩ := exists_needInverse_imodrecip_eq hm hu
    rw [him] at hinv
    have hquot : ((s.iresidue rs1 * r % s.im : Nat) : Int) = a % m * r % m := by
      rw [Int.natCast_mod, Int.natCast_mul, him, natCast_iresidue hpos]
    rw [hgo, hgo, finish_ok, finish_ok, setNat_eq_setInt hquot]
    exact ⟨⟨r, by omega, by omega, hinv, rfl⟩,
      ⟨_, Int.emod_nonneg _ hpos.ne', Int.emod_lt_of_pos _ hpos, mul_inverse_emod_mul_modEq hinv, rfl⟩⟩
  · rw [← him] at hu h0
    rw [needInverse_imodrecip_of_not_unit hm hu, needInverse_imodrecip_of_not_unit hm hu, if_pos h0, finish_fails]
    exact ⟨rfl, rfl⟩
  · rw [← him] at hu h0
    rw [needInverse_imodrecip_of_not_unit hm hu, needInverse_imodrecip_of_not_unit hm hu, if_neg h0, finish_fails]
    exact ⟨rfl, rfl⟩

end Sys2Proof.Machine
end

section
/-! PROOFS. Multiplicative orders in the two residue rings (46_order.md R260 to R262): the scan over the divisors of the
number of units finds the order of the class in the ring. -/

namespace Sys2Proof.Machine

open Polynomial

/-! ## The scan for the order -/

section
variable {M : Type} [Monoid M] {x : M} {phi : Nat} (hphi : 0 < phi) (hx : x ^ phi = 1)
include hphi hx

theorem isLeast_orderOf : IsLeast {k | 1 ≤ k ∧ x ^ k = 1} (orderOf x) :=
  ⟨⟨(isOfFinOrder_iff_pow_eq_one.mpr ⟨phi, hphi, hx⟩).orderOf_pos, pow_orderOf_eq_one x⟩,
    fun _ ⟨hk, hpow⟩ => orderOf_le_of_pow_eq_one hk hpow⟩

theorem isLeast_pow_eq_one_iff {e : Nat} : IsLeast {k | 1 ≤ k ∧ x ^ k = 1} e ↔ orderOf x = e :=
  ⟨(isLeast_orderOf hphi hx).unique, fun h => h ▸ isLeast_orderOf hphi hx⟩

/-- The scan of R260 finds the order: the order is one of the divisors of an exponent that gives 1. -/
theorem order_eq_some {pow : Nat → Nat → Nat} {one a : Nat} (hpow : ∀ d, pow a d = one ↔ x ^ d = 1) :
    order pow one phi a = some (orderOf x) := by
  have hmem : orderOf x ∈ divisorsAsc phi := (mem_divisorsAsc hphi).mpr (orderOf_dvd_of_pow_eq_one hx)
  have htest : pow a (orderOf x) = one := (hpow _).mpr (pow_orderOf_eq_one x)
  rw [order]
  rcases hfind : (divisorsAsc phi).find? (fun d => pow a d = one) with _ | d
  · simpa [htest] using List.find?_eq_none.mp hfind _ hmem
  · obtain ⟨⟨hd, hone⟩, hleast⟩ := isLeast_of_find?_eq_some (pairwise_divisorsAsc phi) hfind
    have hxd : x ^ d = 1 := (hpow d).mp (by simpa using hone)
    have hdpos : 0 < d := Nat.pos_of_dvd_of_pos ((mem_divisorsAsc hphi).mp hd) hphi
    have hle : d ≤ orderOf x := hleast ⟨hmem, by simpa using htest⟩
    rw [le_antisymm hle (orderOf_le_of_pow_eq_one hdpos hxd)]

end

/-! ## Orders in Z/mZ -/

theorem isIntOrder_iff_isLeast {m e : Nat} {a : Int} :
    IsIntOrder m a e ↔ IsLeast {k | 1 ≤ k ∧ (a : ZMod m) ^ k = 1} e := by
  simp only [IsIntOrder, ← ZMod.intCast_eq_intCast_iff, Int.cast_pow, Int.cast_one]

theorem zmod_pow_totient {m : Nat} {a : Int} (h : Int.gcd a m = 1) : (a : ZMod m) ^ Nat.totient m = 1 := by
  have hu : IsUnit (a : ZMod m) := (ZMod.coe_int_isUnit_iff_isCoprime a m).mpr (Int.isCoprime_iff_gcd_eq_one.mpr h).symm
  obtain ⟨u, hu⟩ := hu
  rw [← hu, ← Units.val_pow_eq_pow_val, ZMod.pow_totient, Units.val_one]

section
variable {m : Nat} (hm : 0 < m)
include hm

theorem isIntOrder_iff {a : Int} (h : Int.gcd a m = 1) {e : Nat} : IsIntOrder m a e ↔ orderOf (a : ZMod m) = e :=
  isIntOrder_iff_isLeast.trans (isLeast_pow_eq_one_iff (Nat.totient_pos.mpr hm) (zmod_pow_totient h))

/-- The scan finds the order of the class of a unit, whichever its representative (R261). -/
theorem iorder_eq_some {a : Nat} (h : Int.gcd a m = 1) :
    iorder m (itotient m) a = some (orderOf ((a : Int) : ZMod m)) := by
  rw [itotient_eq hm]
  refine order_eq_some (Nat.totient_pos.mpr hm) (zmod_pow_totient h) fun d => ?_
  rw [← Int.natCast_inj, imodexp_eq hm, Int.natCast_mod, Nat.cast_one, ← Int.cast_pow, ← Int.cast_one (R := ZMod m),
    ZMod.intCast_eq_intCast_iff]
  rfl

theorem orderOf_intCast_lt (h63 : m < 2 ^ 63) {a : Int} (h : Int.gcd a m = 1) : orderOf (a : ZMod m) < 2 ^ 63 :=
  ((orderOf_le_of_pow_eq_one (Nat.totient_pos.mpr hm) (zmod_pow_totient h)).trans (Nat.totient_le m)).trans_lt h63

end

/-! ## Orders in F2[x]/(m) -/

/-- The class of a word in F2[x]/(m). -/
noncomputable def polyClass (m a : Nat) : AdjoinRoot (polyOf m) := AdjoinRoot.mk (polyOf m) (polyOf a)

theorem polyClass_eq_iff {m a b : Nat} : polyClass m a = polyClass m b ↔ PolyCongr m (polyOf a) (polyOf b) :=
  polyCongr_iff_mk_eq.symm

theorem polyClass_pow_eq_one_iff {m a k : Nat} : polyClass m a ^ k = 1 ↔ PolyCongr m (polyOf a ^ k) 1 := by
  rw [polyCongr_iff_mk_eq, map_pow, map_one, polyClass]

theorem isUnit_polyClass_iff {m a : Nat} : IsUnit (polyClass m a) ↔ pgcd a m = 1 := by
  rw [pgcd_eq_one_iff, isUnit_iff_exists_inv]
  constructor
  · rintro ⟨y, hy⟩
    obtain ⟨q, rfl⟩ := AdjoinRoot.mk_surjective y
    rw [polyClass, ← map_mul, ← map_one (AdjoinRoot.mk (polyOf m)), AdjoinRoot.mk_eq_mk] at hy
    obtain ⟨c, hc⟩ := hy
    exact ⟨q, -c, by linear_combination hc⟩
  · rintro ⟨u, v, h⟩
    refine ⟨AdjoinRoot.mk (polyOf m) u, ?_⟩
    rw [polyClass, ← map_mul, ← map_one (AdjoinRoot.mk (polyOf m)), AdjoinRoot.mk_eq_mk]
    exact ⟨-v, by linear_combination h⟩

section
variable {m : Nat} (hm : m ≠ 0)
include hm

theorem polyClass_pmodp (a : Nat) : polyClass m (pmodp a m) = polyClass m a := polyClass_eq_iff.mpr (polyCongr_pmodp a hm)

/-- A class has one reduced representative at most. -/
theorem polyClass_injOn : Set.InjOn (polyClass m) {u | u < 2 ^ deg m} := fun u hu v hv h => by
  have hdvd : polyOf m ∣ polyOf (u ^^^ v) := by
    rw [polyOf_xor, ← sub_eq_add_mod_two]
    exact polyClass_eq_iff.mp h
  exact Nat.xor_eq_zero_iff.mp (eq_zero_of_dvd hm (Nat.xor_lt_two_pow hu hv) hdvd)

/-- The units of F2[x]/(m) are the classes of the coprime residues. -/
theorem range_units_eq_image : Set.range (Units.val : (AdjoinRoot (polyOf m))ˣ → _) =
    polyClass m '' coprimeResidues m := by
  ext y
  constructor
  · rintro ⟨u, rfl⟩
    obtain ⟨p, hp⟩ := AdjoinRoot.mk_surjective (u : AdjoinRoot (polyOf m))
    obtain ⟨a, rfl⟩ := exists_polyOf p
    have ha : polyClass m (pmodp a m) = u := (polyClass_pmodp hm a).trans hp
    have hunit : pgcd (pmodp a m) m = 1 := isUnit_polyClass_iff.mp (ha ▸ u.isUnit)
    exact ⟨pmodp a m, mem_coprimeResidues.mpr ⟨pmodp_lt a hm, (pgcd_eq_one_iff _ _).mp hunit⟩, ha⟩
  · rintro ⟨a, ha, rfl⟩
    obtain ⟨-, hcop⟩ := mem_coprimeResidues.mp ha
    exact isUnit_polyClass_iff.mpr ((pgcd_eq_one_iff a m).mpr hcop)

/-- polyTotient is the number of units of F2[x]/(m). -/
theorem card_units_eq_polyTotient : Nat.card (AdjoinRoot (polyOf m))ˣ = polyTotient m := by
  have hinj : Set.InjOn (polyClass m) (coprimeResidues m) :=
    (polyClass_injOn hm).mono fun u hu => (mem_coprimeResidues.mp hu).1
  rw [← Nat.card_range_of_injective Units.val_injective, range_units_eq_image hm, Nat.card_image_of_injOn hinj,
    polyTotient_eq_card]
  exact Nat.card_eq_fintype_card.trans (Fintype.card_coe _)

theorem polyClass_pow_polyTotient {a : Nat} (h : pgcd a m = 1) : polyClass m a ^ polyTotient m = 1 := by
  obtain ⟨u, hu⟩ := isUnit_polyClass_iff.mpr h
  rw [← hu, ← Units.val_pow_eq_pow_val, ← card_units_eq_polyTotient hm, pow_card_eq_one', Units.val_one]

theorem polyTotient_pos : 0 < polyTotient m := by
  rw [polyTotient_eq_card, Finset.card_pos]
  refine ⟨pmodp 1 m, mem_coprimeResidues.mpr ⟨pmodp_lt 1 hm, (isCoprime_pmodp_iff 1 hm).mpr ?_⟩⟩
  rw [polyOf_one]
  exact isCoprime_one_left

theorem ppowmod_eq_one_iff {a d : Nat} : ppowmod m a d = pmodp 1 m ↔ polyClass m a ^ d = 1 := by
  rw [polyClass_pow_eq_one_iff, ← (polyClass_injOn hm).eq_iff (ppowmod_lt hm a d) (pmodp_lt 1 hm), polyClass_eq_iff]
  have hpow := polyCongr_ppowmod hm a d
  have hone := polyCongr_pmodp 1 hm
  rw [polyOf_one] at hone
  exact ⟨fun h => (hpow.symm.trans h).trans hone, fun h => (hpow.trans h).trans hone.symm⟩

theorem isPolyOrder_iff {a : Nat} (h : pgcd a m = 1) {e : Nat} : IsPolyOrder m a e ↔ orderOf (polyClass m a) = e := by
  rw [← isLeast_pow_eq_one_iff (polyTotient_pos hm) (polyClass_pow_polyTotient hm h)]
  simp only [polyClass_pow_eq_one_iff]
  rfl

/-- The scan finds the order of the class of a unit (R262). -/
theorem porder_eq_some {a : Nat} (h : pgcd a m = 1) : porder m (polyTotient m) a = some (orderOf (polyClass m a)) :=
  order_eq_some (polyTotient_pos hm) (polyClass_pow_polyTotient hm h) fun _ => ppowmod_eq_one_iff hm

end

/-- The number of units is below 2^63: a modulus of degree 63 has 0 among its residues, which is no unit. -/
theorem polyTotient_lt {m : Nat} (h64 : m < 2 ^ 64) : polyTotient m < 2 ^ 63 := by
  have hpow : 2 ^ deg m ≤ 2 ^ 63 := Nat.pow_le_pow_right (by omega) (lt_two_pow_64_iff.mp h64)
  by_cases h1 : m = 1
  · rw [h1, polyTotient_one]
    decide
  · have hsub : coprimeResidues m ⊂ Finset.range (2 ^ deg m) := by
      refine Finset.filter_ssubset.mpr ⟨0, Finset.mem_range.mpr (Nat.two_pow_pos _), fun h0 => h1 ?_⟩
      rw [pgcd_eq_one_iff, polyOf_zero, isCoprime_zero_left] at h0
      exact polyOf_injective (((monic_of_ne_zero h0.ne_zero).eq_one_of_isUnit h0).trans polyOf_one.symm)
    have hcard := Finset.card_lt_card hsub
    rw [Finset.card_range, ← polyTotient_eq_card] at hcard
    omega

theorem orderOf_polyClass_lt {m : Nat} (hm : m ≠ 0) (h64 : m < 2 ^ 64) {a : Nat} (h : pgcd a m = 1) :
    orderOf (polyClass m a) < 2 ^ 63 :=
  (orderOf_le_of_pow_eq_one (polyTotient_pos hm) (polyClass_pow_polyTotient hm h)).trans_lt (polyTotient_lt h64)

/-! ## IMORDER and PMORDER -/

theorem finish_orderResult_some (rd : Reg) (s : State) (u : Nat) :
    finish s (orderResult rd s (some u)) = .next ((s.setNat rd u).setCode 0) := rfl

theorem finish_orderResult_none (rd : Reg) (s : State) :
    finish s (orderResult rd s none) = .next (raise .notfound s) := rfl

theorem im_pos {s : State} (h : 0 < s.imod.toInt) : 0 < s.im := by
  have := natCast_im h
  omega

theorem iunit_iresidue_iff {s : State} (hm : 0 < s.im) (rs1 : Reg) :
    iunit s.im (s.iresidue rs1) = true ↔ Int.gcd (s.s64 rs1) s.im = 1 := by
  rw [iunit, decide_eq_true_iff, igcd_eq, State.iresidue, imodm_eq hm, Int.gcd_emod]

theorem punit_presidue_iff {s : State} (hm : s.pm ≠ 0) (rs1 : Reg) :
    punit s.pm (s.presidue rs1) = true ↔ pgcd (s.u64 rs1) s.pm = 1 := by
  rw [punit, decide_eq_true_iff, State.presidue, pgcd_pmodp_eq_one_iff hm]

section
variable {s : State} {rs1 : Reg} (hv : s.imodv = true) (hm : 0 < s.im) (rd : Reg)
include hv hm

theorem execImorder_of_not_unit (h : Int.gcd (s.s64 rs1) s.im ≠ 1) :
    exec (.imorder rd rs1) s = .next (raise .notinv s) := by
  simp only [exec, execImorder, hv, needCtx_true, iunit_iresidue_iff hm, if_neg h, finish_fails]

theorem execImorder_of_unit (h : Int.gcd (s.s64 rs1) s.im = 1) : exec (.imorder rd rs1) s =
    .next ((s.setNat rd (orderOf (s.s64 rs1 : ZMod s.im))).setCode 0) := by
  have hres : Int.gcd (s.iresidue rs1) s.im = 1 := by rwa [State.iresidue, imodm_eq hm, Int.gcd_emod]
  have hclass : ((s.iresidue rs1 : Int) : ZMod s.im) = s.s64 rs1 :=
    (ZMod.intCast_eq_intCast_iff _ _ _).mpr (imodm_modEq hm _)
  simp only [exec, execImorder, hv, needCtx_true, iunit_iresidue_iff hm, if_pos h, iorder_eq_some hm hres, hclass,
    finish_orderResult_some]

end

section
variable {s : State} {rs1 : Reg} (hv : s.pmodv = true) (hm : s.pm ≠ 0) (rd : Reg)
include hv hm

theorem execPmorder_of_not_unit (h : pgcd (s.u64 rs1) s.pm ≠ 1) :
    exec (.pmorder rd rs1) s = .next (raise .notinv s) := by
  simp only [exec, execPmorder, hv, needCtx_true, punit_presidue_iff hm, if_neg h, finish_fails]

theorem execPmorder_of_unit (h : pgcd (s.u64 rs1) s.pm = 1) : exec (.pmorder rd rs1) s =
    .next ((s.setNat rd (orderOf (polyClass s.pm (s.u64 rs1)))).setCode 0) := by
  have hres : pgcd (s.presidue rs1) s.pm = 1 := (pgcd_pmodp_eq_one_iff hm).mpr h
  have hclass : polyClass s.pm (s.presidue rs1) = polyClass s.pm (s.u64 rs1) := polyClass_pmodp hm _
  simp only [exec, execPmorder, hv, needCtx_true, punit_presidue_iff hm, if_pos h, ptotient_eq hm s.pmod.isLt,
    onFatal_ok, porder_eq_some hm hres, hclass, finish_orderResult_some]

end

/-- Settles O57: the scan answers the order of the operand's class in the group of units. -/
theorem orders : Obligations.Orders := by
  intro s rd rs1
  refine ⟨fun hv hpos => ?_, fun hv hm0 => ?_⟩
  · rw [toNat_imod_eq_im hpos, ← natCast_im hpos]
    have hm : 0 < s.im := im_pos hpos
    exact ⟨execImorder_of_not_unit hv hm rd, fun h => ⟨_, orderOf_intCast_lt hm (im_lt s) h,
      (isIntOrder_iff hm h).mpr rfl, execImorder_of_unit hv hm rd h⟩⟩
  · have hm : s.pm ≠ 0 := pm_ne_zero hm0
    exact ⟨execPmorder_of_not_unit hv hm rd, fun h => ⟨_, orderOf_polyClass_lt hm s.pmod.isLt h,
      (isPolyOrder_iff hm h).mpr rfl, execPmorder_of_unit hv hm rd h⟩⟩

end Sys2Proof.Machine
end

section
/-! PROOFS. The searches over the units: the greatest order and the least generator (46_order.md R263 to R266, R268). -/

namespace Sys2Proof.Machine

/-! ## The searches over the units -/

theorem mem_unitsBelow {unit : Nat → Bool} {bound u : Nat} :
    u ∈ unitsBelow unit bound ↔ 1 ≤ u ∧ u < bound ∧ unit u = true := by
  rw [unitsBelow, List.mem_filter, List.mem_range'_1, and_assoc]
  exact and_congr_right fun h => and_congr_left' (by omega)

/-- Folding with max from 0 gives the greatest entry of a list that has one. -/
theorem isGreatest_foldl_max {l : List Nat} (h : l ≠ []) : IsGreatest {k | k ∈ l} (l.foldl max 0) := by
  cases l with
  | nil => contradiction
  | cons a t =>
    have hmax : (a :: t).max? = some ((a :: t).foldl max 0) := by
      rw [List.max?_cons', List.foldl_cons, Nat.zero_max]
    exact List.max?_eq_some_iff.mp hmax

section
variable {ord : Nat → Option Nat} {unit : Nat → Bool} {bound : Nat} {U : Nat → Prop} {O : Nat → Nat → Prop}
  (hU : ∀ u, U u ↔ 1 ≤ u ∧ u < bound ∧ unit u = true) (hO : ∀ u, U u → ∀ k, O u k ↔ ord u = some k)
include hU hO

/-- Where there is an order of a unit, the maximum of R263 is the greatest of them. -/
theorem isGreatest_maxOrder {u k : Nat} (hu : U u) (hk : O u k) :
    IsGreatest {k | ∃ u, U u ∧ O u k} (maxOrder ord (unitsBelow unit bound)) := by
  have hset : {k | ∃ u, U u ∧ O u k} = {k | k ∈ (unitsBelow unit bound).filterMap ord} := by
    ext k
    simp only [Set.mem_ofPred_eq, List.mem_filterMap, mem_unitsBelow, ← hU]
    exact exists_congr fun u => and_congr_right fun hu => hO u hu k
  have hmem : k ∈ (unitsBelow unit bound).filterMap ord :=
    List.mem_filterMap.mpr ⟨u, mem_unitsBelow.mpr ((hU u).mp hu), (hO u hu k).mp hk⟩
  exact hset ▸ isGreatest_foldl_max (List.ne_nil_of_mem hmem)

/-- The search of R265 answers the least unit of the given order, or nothing where no unit has it. -/
theorem leastGenerator_spec (phi : Nat) :
    (∃ u, leastGenerator ord unit phi bound = some u ∧ IsLeast {u | U u ∧ O u phi} u) ∨
      leastGenerator ord unit phi bound = none ∧ ¬ {u | U u ∧ O u phi}.Nonempty := by
  have hgen : ∀ u, (U u ∧ O u phi) ↔ 0 < u ∧ u < bound ∧ (unit u && ord u = some phi) = true := fun u => by
    rw [and_congr_right fun hu => hO u hu phi, hU, Bool.and_eq_true, decide_eq_true_iff, and_assoc, and_assoc]
    rfl
  have hspec := leastAbove_spec hgen
  rw [leastAbove, zero_add] at hspec
  rw [leastGenerator]
  rcases h : findUp (fun u => unit u && ord u = some phi) (bound - 1) 1 with _ | u
  · rw [h] at hspec
    refine .inr ⟨rfl, fun ⟨v, hv⟩ => hspec.elim (fun hleast => ?_) fun hnone => hnone.2 v hv⟩
    exact absurd ((hgen 0).mp hleast.1).1 (lt_irrefl 0)
  · rw [h] at hspec
    have hpos : 1 ≤ u := (findUp_eq_some h).1
    exact .inl ⟨u, rfl, hspec.resolve_right fun hzero => absurd hzero.1 (by rw [Option.getD_some]; omega)⟩

end

/-! ## The units of the two rings -/

theorem IntUnit.gcd_eq_one {m u : Nat} (h : IntUnit m u) : Int.gcd u m = 1 :=
  (Int.gcd_natCast_natCast u m).trans h.2.2

theorem PolyUnit.pgcd_eq_one {m u : Nat} (h : PolyUnit m u) : pgcd u m = 1 := (pgcd_eq_one_iff u m).mpr h.2.2

section
variable {m : Nat} (hm : 0 < m)
include hm

theorem isIntOrder_iff_iorder {u : Nat} (h : IntUnit m u) (k : Nat) :
    IsIntOrder m u k ↔ iorder m (itotient m) u = some k := by
  rw [isIntOrder_iff hm h.gcd_eq_one, iorder_eq_some hm h.gcd_eq_one, Option.some_inj]

theorem isIntOrder_lt (h63 : m < 2 ^ 63) {u k : Nat} (h : IntUnit m u) (hk : IsIntOrder m u k) : k < 2 ^ 63 :=
  (isIntOrder_iff hm h.gcd_eq_one).mp hk ▸ orderOf_intCast_lt hm h63 h.gcd_eq_one

/-- 1 is a unit of order 1 where it is among the residues searched. -/
theorem intUnit_one (h1 : m ≠ 1) : IntUnit m 1 := ⟨le_rfl, by omega, Nat.coprime_one_left m⟩

end

theorem isIntOrder_one (m : Nat) : IsIntOrder m (1 : Nat) 1 :=
  ⟨⟨le_rfl, by rw [pow_one]; rfl⟩, fun _ hk => hk.1⟩

section
variable {m : Nat} (hm : m ≠ 0)
include hm

theorem isPolyOrder_iff_porder {u : Nat} (h : PolyUnit m u) (k : Nat) :
    IsPolyOrder m u k ↔ porder m (polyTotient m) u = some k := by
  rw [isPolyOrder_iff hm h.pgcd_eq_one, porder_eq_some hm h.pgcd_eq_one, Option.some_inj]

theorem isPolyOrder_lt (h64 : m < 2 ^ 64) {u k : Nat} (h : PolyUnit m u) (hk : IsPolyOrder m u k) : k < 2 ^ 63 :=
  (isPolyOrder_iff hm h.pgcd_eq_one).mp hk ▸ orderOf_polyClass_lt hm h64 h.pgcd_eq_one

theorem polyUnit_one (h1 : m ≠ 1) : PolyUnit m 1 := by
  have hdeg : 1 ≤ deg m := deg_pos hm h1
  refine ⟨le_rfl, Nat.one_lt_two_pow (by rw [natDegree_polyOf]; omega), ?_⟩
  rw [polyOf_one]
  exact isCoprime_one_left

end

theorem isPolyOrder_one (m : Nat) : IsPolyOrder m 1 1 :=
  ⟨⟨le_rfl, by rw [polyOf_one, pow_one]; exact .refl m 1⟩, fun _ hk => hk.1⟩

/-! ## IMMAXORD and PMMAXORD -/

/-- No residue is searched modulo 1, or modulo a polynomial of degree 0 (R268). -/
theorem unitsBelow_one (unit : Nat → Bool) : unitsBelow unit 1 = [] := rfl

theorem unitsBelow_ne_nil {unit : Nat → Bool} {bound u : Nat} (h : 1 ≤ u ∧ u < bound ∧ unit u = true) :
    unitsBelow unit bound ≠ [] := List.ne_nil_of_mem (mem_unitsBelow.mpr h)

section
variable {s : State} (hv : s.imodv = true) (rd : Reg)
include hv

theorem execImmaxord_of_one (h1 : s.im = 1) : exec (.immaxord rd) s = .next (raise .undef s) := by
  simp only [exec, execImmaxord, hv, needCtx_true, h1, unitsBelow_one, if_true, finish_fails]

theorem execImmaxord_of_ne_one (hm : 0 < s.im) (h1 : s.im ≠ 1) : exec (.immaxord rd) s =
    .next ((s.setNat rd (maxOrder (iorder s.im (itotient s.im)) (unitsBelow (iunit s.im) s.im))).setCode 0) := by
  simp only [exec, execImmaxord, hv, needCtx_true, if_neg (unitsBelow_ne_nil (intUnit_iff.mp (intUnit_one hm h1))),
    finish_ok]

end

section
variable {s : State} (hv : s.pmodv = true) (rd : Reg)
include hv

theorem execPmmaxord_of_one (h1 : s.pm = 1) : exec (.pmmaxord rd) s = .next (raise .undef s) := by
  simp only [exec, execPmmaxord, hv, needCtx_true, h1, deg_one, pow_zero, unitsBelow_one, if_true, finish_fails]

theorem execPmmaxord_of_ne_one (hm : s.pm ≠ 0) (h1 : s.pm ≠ 1) : exec (.pmmaxord rd) s =
    .next ((s.setNat rd
      (maxOrder (porder s.pm (polyTotient s.pm)) (unitsBelow (punit s.pm) (2 ^ deg s.pm)))).setCode 0) := by
  simp only [exec, execPmmaxord, hv, needCtx_true, if_neg (unitsBelow_ne_nil (polyUnit_iff.mp (polyUnit_one hm h1))),
    ptotient_eq hm s.pmod.isLt, onFatal_ok, finish_ok]

end

/-- Settles O58: the maximum runs over the orders of all units, and 1 is a unit unless the modulus is 1. -/
theorem maximalOrders : Obligations.MaximalOrders := by
  intro s rd
  refine ⟨fun hv hpos => ?_, fun hv hm0 => ?_⟩
  · have him : s.imod.toNat = s.im := toNat_imod_eq_im hpos
    have hm : 0 < s.im := im_pos hpos
    have hone : s.imod = 1 ↔ s.im = 1 := by rw [← him, ← BitVec.toNat_inj]; rfl
    rw [him]
    refine ⟨fun h1 => execImmaxord_of_one hv rd (hone.mp h1), fun h1 => ?_⟩
    replace h1 : s.im ≠ 1 := mt hone.mpr h1
    have hmax := isGreatest_maxOrder (fun _ => intUnit_iff) (fun u => isIntOrder_iff_iorder hm (u := u))
      (intUnit_one hm h1) (isIntOrder_one s.im)
    obtain ⟨u, hu, hk⟩ := hmax.1
    exact ⟨_, isIntOrder_lt hm (im_lt s) hu hk, hmax, execImmaxord_of_ne_one hv rd hm h1⟩
  · have hm : s.pm ≠ 0 := pm_ne_zero hm0
    have hone : s.pmod = 1 ↔ s.pm = 1 := by rw [State.pm, ← BitVec.toNat_inj]; rfl
    refine ⟨fun h1 => execPmmaxord_of_one hv rd (hone.mp h1), fun h1 => ?_⟩
    replace h1 : s.pm ≠ 1 := mt hone.mpr h1
    have hmax := isGreatest_maxOrder (fun _ => polyUnit_iff) (fun u => isPolyOrder_iff_porder hm (u := u))
      (polyUnit_one hm h1) (isPolyOrder_one s.pm)
    obtain ⟨u, hu, hk⟩ := hmax.1
    exact ⟨_, isPolyOrder_lt hm s.pmod.isLt hu hk, hmax, execPmmaxord_of_ne_one hv rd hm h1⟩

/-! ## IMGEN and PMGEN -/

theorem execImgen_of_valid {s : State} (hv : s.imodv = true) (hm : 0 < s.im) (rd : Reg) : exec (.imgen rd) s =
    finish s (orderResult rd s
      (leastGenerator (iorder s.im (itotient s.im)) (iunit s.im) (Nat.totient s.im) s.im)) := by
  rw [exec, execImgen, hv, itotient_eq hm]
  rfl

theorem execPmgen_of_valid {s : State} (hv : s.pmodv = true) (hm : s.pm ≠ 0) (rd : Reg) : exec (.pmgen rd) s =
    finish s (orderResult rd s
      (leastGenerator (porder s.pm (polyTotient s.pm)) (punit s.pm) (polyTotient s.pm) (2 ^ deg s.pm))) := by
  rw [exec, execPmgen, hv, ptotient_eq hm s.pmod.isLt]
  rfl

/-- Settles O59: the search meets the units in order and compares the order of each with the number of units. -/
theorem generators : Obligations.Generators := by
  intro s rd
  refine ⟨fun hv hpos => ?_, fun hv hm0 => ?_⟩
  · rw [toNat_imod_eq_im hpos]
    have hm : 0 < s.im := im_pos hpos
    rw [execImgen_of_valid hv hm]
    rcases leastGenerator_spec (fun _ => intUnit_iff) (fun u => isIntOrder_iff_iorder hm (u := u)) (Nat.totient s.im)
      with ⟨u, hgen, hleast⟩ | ⟨hgen, hnone⟩
    · rw [hgen, finish_orderResult_some]
      exact ⟨fun _ => ⟨u, hleast.1.1.2.1.trans (im_lt s), hleast, rfl⟩, fun h => absurd ⟨u, hleast.1⟩ h⟩
    · rw [hgen, finish_orderResult_none]
      exact ⟨fun h => absurd h hnone, fun _ => rfl⟩
  · have hm : s.pm ≠ 0 := pm_ne_zero hm0
    rw [execPmgen_of_valid hv hm]
    rcases leastGenerator_spec (fun _ => polyUnit_iff) (fun u => isPolyOrder_iff_porder hm (u := u)) (polyTotient s.pm)
      with ⟨u, hgen, hleast⟩ | ⟨hgen, hnone⟩
    · have hlt : u < 2 ^ deg s.pm := (polyUnit_iff.mp hleast.1.1).2.1
      rw [hgen, finish_orderResult_some]
      exact ⟨fun _ => ⟨u, (reduced_result s.pmod.isLt hlt).1, hleast, rfl⟩, fun h => absurd ⟨u, hleast.1⟩ h⟩
    · rw [hgen, finish_orderResult_none]
      exact ⟨fun h => absurd h hnone, fun _ => rfl⟩

end Sys2Proof.Machine
end

section
/-! PROOFS. The primitivity test: x has the number of units as its order exactly where no quotient of that number by a
prime gives 1 (46_order.md R267, R269). -/

namespace Sys2Proof.Machine

/-! ## The test over the primes of the number of units -/

theorem orderOf_eq_iff_pow_div_prime_ne_one {M : Type} [Monoid M] {x : M} {n : Nat} (hn : 0 < n) :
    orderOf x = n ↔ (∀ p, p.Prime ∧ p ∣ n → x ^ (n / p) ≠ 1) ∧ x ^ n = 1 := by
  constructor
  · rintro rfl
    refine ⟨fun p ⟨hp, hd⟩ => pow_ne_one_of_lt_orderOf ?_ (Nat.div_lt_self hn hp.one_lt), pow_orderOf_eq_one x⟩
    exact (Nat.div_pos (Nat.le_of_dvd hn hd) hp.pos).ne'
  · rintro ⟨hprime, hone⟩
    exact orderOf_eq_of_pow_and_pow_div_prime hn hone fun p hp hd => hprime p ⟨hp, hd⟩

/-- The bases of a factorisation are the prime divisors. -/
theorem IsIntFactors.exists_mem_iff {n : Nat} {l : FacList} (h : IsIntFactors n l) {p : Nat} :
    (∃ e, (p, e) ∈ l) ↔ p.Prime ∧ p ∣ n := by
  obtain ⟨-, hprime, rfl⟩ := h
  constructor
  · rintro ⟨e, he⟩
    obtain ⟨hp, he1⟩ := hprime _ he
    exact ⟨hp, (dvd_pow_self p (by omega)).trans (List.dvd_prod (List.mem_map_of_mem he))⟩
  · rintro ⟨hp, hd⟩
    obtain ⟨_, hmem, hd⟩ := hp.prime.dvd_prod_iff.mp hd
    obtain ⟨b, hb, rfl⟩ := List.mem_map.mp hmem
    obtain rfl := (Nat.prime_dvd_prime_iff_eq hp (hprime b hb).1).mp (hp.dvd_of_dvd_pow hd)
    exact ⟨b.2, hb⟩

/-- The test of R269 decides whether x is a unit that generates the group of units. -/
theorem exists_primitive_eq {m : Nat} (hm : m ≠ 0) (h64 : m < 2 ^ 64) :
    ∃ b, primitive m = .ok b ∧ (b = true ↔ pgcd 2 m = 1 ∧ orderOf (polyClass m 2) = polyTotient m) := by
  have hfac := isIntFactors_factorNat (polyTotient_pos hm)
  rw [primitive, ptotient_eq hm h64]
  refine ⟨_, rfl, ?_⟩
  simp only [Bool.and_eq_true, decide_eq_true_eq, List.all_eq_true, ne_eq, ppowmod_eq_one_iff hm, polyClass_pmodp hm,
    and_assoc]
  rw [orderOf_eq_iff_pow_div_prime_ne_one (polyTotient_pos hm)]
  simp only [← hfac.exists_mem_iff, forall_exists_index, Prod.forall]

/-! ## PPRIM -/

/-- Settles O60: the test over the primes of the number of units decides whether x generates the group of units. -/
theorem primitivity : Obligations.Primitivity := by
  intro s rd rs1
  refine ⟨fun h => ?_, fun h => ?_⟩
  · simp only [exec, execPprim, deg_of_le_one (Nat.le_of_lt_succ h), if_true, finish_fails]
  · have hm : s.u64 rs1 ≠ 0 := by omega
    have hdeg : deg (s.u64 rs1) ≠ 0 := Nat.one_le_iff_ne_zero.mp (deg_pos_iff.mpr h)
    obtain ⟨b, hb, hiff⟩ := exists_primitive_eq hm (u64_lt s rs1)
    refine ⟨b, ?_, ?_⟩
    · rw [hiff, ← polyOf_two, ← pgcd_eq_one_iff]
      exact and_congr_right fun hcop => (isPolyOrder_iff hm hcop).symm
    · simp only [exec, execPprim, if_neg hdeg, hb, onFatal_ok, finish_ok, State.setBool]

end Sys2Proof.Machine
end

section
/-! PROOFS. How a command ends: what an error records (60_exceptions.md R283, R290), the codes each command can complete
with (R280, R282), and the states it can end in (R284, R294, 70_reset_and_hazards.md R325). -/

namespace Sys2Proof.Machine

/-! ## The error record -/

theorem setField_code (w : Word) {c : Nat} (hc : c < 256) :
    setField w 0 (BitVec.ofNat 8 c) = (w &&& ~~~0xFF) ||| BitVec.ofNat 64 c := by
  have hv : ((BitVec.ofNat 8 c).setWidth 64 : Word) = BitVec.ofNat 64 c :=
    BitVec.eq_of_toNat_eq (by simp [Nat.mod_eq_of_lt hc])
  rw [setField, hv, BitVec.shiftLeft_zero, BitVec.shiftLeft_zero]
  rfl

theorem setField_fatal (w : Word) : setField w 8 (BitVec.ofBool true) = (w &&& ~~~0x100) ||| 0x100 := rfl

/-- STATUS.fatal is set beside a fatal code, whose bits are all below it. -/
theorem setField_fatal_code (w : Word) (f : FatalCode) :
    setField (setField w 0 (BitVec.ofNat 8 f.num)) 8 (BitVec.ofBool true) =
      (w &&& ~~~0x1FF) ||| 0x100 ||| BitVec.ofNat 64 f.num := by
  have hbit : BitVec.ofNat 64 f.num &&& ~~~(0x100 : Word) = BitVec.ofNat 64 f.num := by cases f <;> decide
  have hmask : (~~~0xFF &&& ~~~0x100 : Word) = ~~~0x1FF := by decide
  rw [setField_code w f.num_lt, setField_fatal, BitVec.and_comm _ (~~~(0x100 : Word)), BitVec.and_or_distrib_left,
    BitVec.and_comm _ (BitVec.ofNat 64 f.num), hbit, BitVec.and_comm _ (w &&& _), BitVec.and_assoc, hmask,
    BitVec.or_assoc, BitVec.or_assoc, BitVec.or_comm (BitVec.ofNat 64 f.num)]

/-- Settles O6: only the fields of STATUS are packed, the other two registers are written as they stand. -/
theorem raiseRecords : Obligations.RaiseRecords := by
  refine ⟨fun e s => ?_, fun f s => ?_⟩
  · rw [← setField_code s.status e.num_lt]
    rfl
  · rw [← setField_fatal_code s.status f]
    rfl

/-! ## Why a command stops -/

/-- Where a result is none, the reason has a property. -/
def StopsIn (P : Stop → Prop) (r : Result) : Prop := ∀ e, r = .error e → P e

section
variable {P : Stop → Prop}

@[simp] theorem stopsIn_ok (s : State) : StopsIn P (.ok s) := fun _ h => by cases h

@[simp] theorem stopsIn_error {e : Stop} : StopsIn P (.error e) ↔ P e :=
  ⟨fun h => h e rfl, fun h _ he => by cases he; exact h⟩

@[simp] theorem stopsIn_fails {e : ErrCode} : StopsIn P (fails e) ↔ P (.err e) := stopsIn_error

@[simp] theorem stopsIn_ite {c : Prop} [Decidable c] {a b : Result} :
    StopsIn P (if c then a else b) ↔ (c → StopsIn P a) ∧ (¬ c → StopsIn P b) := by
  split <;> simp_all

@[simp] theorem stopsIn_needCtx {v : Bool} {k : Result} :
    StopsIn P (needCtx v k) ↔ (v = false → P (.err .noctx)) ∧ (v = true → StopsIn P k) := by
  cases v <;> simp

@[simp] theorem stopsIn_needIndex {i : Int} {n : Nat} {k : Nat → Result} :
    StopsIn P (needIndex i n k) ↔
      (i < 0 ∨ (n : Int) ≤ i → P (.err .index)) ∧ (¬ (i < 0 ∨ (n : Int) ≤ i) → StopsIn P (k i.toNat)) := by
  rw [needIndex, stopsIn_ite, stopsIn_fails]

@[simp] theorem stopsIn_needInt63 {n : Nat} {k : Result} :
    StopsIn P (needInt63 n k) ↔ (2 ^ 63 ≤ n → P (.err .overflow)) ∧ (¬ 2 ^ 63 ≤ n → StopsIn P k) := by
  rw [needInt63, stopsIn_ite, stopsIn_fails]

@[simp] theorem stopsIn_needInverse {o : Option Nat} {a : Nat} {k : Nat → Result} :
    StopsIn P (needInverse o a k) ↔
      (o = none → (a = 0 → P (.err .divzero)) ∧ (a ≠ 0 → P (.err .notinv))) ∧ ∀ r, o = some r → StopsIn P (k r) := by
  cases o <;> simp [needInverse]

@[simp] theorem stopsIn_orderResult {rd : Reg} {s : State} {o : Option Nat} :
    StopsIn P (orderResult rd s o) ↔ (o = none → P (.err .notfound)) := by
  cases o <;> simp [orderResult]

@[simp] theorem stopsIn_onCell {α : Type} {a : Except Fault α} {k : α → Result} :
    StopsIn P (onCell a k) ↔ (∀ f, a = .error f → P (.fault f)) ∧ ∀ v, a = .ok v → StopsIn P (k v) := by
  cases a <;> simp [onCell]

@[simp] theorem stopsIn_onFatal {α : Type} {a : Except FatalCode α} {k : α → Result} :
    StopsIn P (onFatal a k) ↔ (∀ f, a = .error f → P (.fatal f)) ∧ ∀ v, a = .ok v → StopsIn P (k v) := by
  cases a <;> simp [onFatal]

end

/-! ## The codes of a command -/

/-- The code of a stop is one that 60_exceptions.md R282 lists for an op. A fault has no code. -/
def Listed (op : Nat) : Stop → Prop
  | .err e => e.num ∈ possibleCodes op
  | .fatal f => f.num ∈ possibleCodes op
  | .fault _ => True

@[simp] theorem listed_err {op : Nat} {e : ErrCode} : Listed op (.err e) ↔ e.num ∈ possibleCodes op := Iff.rfl
@[simp] theorem listed_fault (op : Nat) (f : Fault) : Listed op (.fault f) := trivial

/-- An op whose row lists all four fatal conditions. -/
theorem listed_fatal {op : Nat} (h : ∀ c ∈ [32, 33, 34, 35], c ∈ possibleCodes op) (f : FatalCode) :
    Listed op (.fatal f) := h _ (by cases f <;> decide)

/-- Kernel extraction makes one internal check (R289). -/
theorem kernelBasis_error {nc : Nat} {rows : List Nat} {f : FatalCode} (h : kernelBasis nc rows = .error f) :
    f = .kernel := by
  simp only [kernelBasis] at h
  split at h <;> cases h
  rfl

@[simp] theorem stopsIn_storeFactors (op : Nat) (s : State) (kind : Nat) (triv : Option Word) (l : FacList) :
    StopsIn (Listed op) (s.storeFactors kind triv l) := by
  simp [State.storeFactors]

/-- Every command but PRANDIRR is `finish` of a result that stops for a listed reason only, or the construction of its
context fails. -/
theorem exec_stopsIn_listed (i : Instr) (s : State) (h35 : i.opcode ≠ 0x35) :
    (∃ r, exec i s = finish s r ∧ StopsIn (Listed i.opcode.toNat) r) ∨
      7 ∈ possibleCodes i.opcode.toNat ∧ ∃ s1, TakenIn i s s1 ∧ exec i s = .next (raise .construct s1) := by
  cases i with
  | prandirr => exact absurd rfl h35
  | mnew rs1 rs2 =>
    simp only [exec, execMnew]
    split
    · exact .inr ⟨List.mem_singleton_self 7, _, .noMatrix rfl, rfl⟩
    · exact .inl ⟨_, rfl, by simp⟩
  | pmsetmod rs1 =>
    simp only [exec, execPmsetmod]
    split
    · exact .inr ⟨List.mem_singleton_self 7, _, .noPolyModulus rfl, rfl⟩
    · exact .inl ⟨.ok _, rfl, stopsIn_ok _⟩
  | imsetmod rs1 =>
    simp only [exec, execImsetmod]
    split
    · exact .inr ⟨List.mem_singleton_self 7, _, .noIntModulus rfl, rfl⟩
    · exact .inl ⟨.ok _, rfl, stopsIn_ok _⟩
  | mker =>
    refine .inl ⟨_, rfl, stopsIn_needCtx.mpr ⟨fun _ => ?_, fun _ => stopsIn_onCell.mpr ⟨fun _ _ => ?_, fun rows _ =>
      stopsIn_onFatal.mpr ⟨fun f hf => ?_, fun _ _ => ?_⟩⟩⟩⟩
    · simp [Instr.opcode, possibleCodes, ErrCode.num]
    · exact listed_fault _ _
    · rw [kernelBasis_error hf]
      exact List.mem_cons_of_mem _ (List.mem_singleton_self 32)
    · simp
  | psqrt =>
    refine .inl ⟨_, rfl, ?_⟩
    split <;> simp
  | plowirr rd rs1 =>
    refine .inl ⟨_, rfl, stopsIn_ite.mpr ⟨fun _ => ?_, fun _ => stopsIn_onFatal.mpr ⟨fun f _ => ?_, fun c _ => ?_⟩⟩⟩
    · simp [Instr.opcode, possibleCodes, ErrCode.num]
    · simp [Instr.opcode, possibleCodes, listed_fatal]
    · split <;> simp [Instr.opcode, possibleCodes, ErrCode.num]
  | imodrecip rd rs1 rs2 =>
    refine .inl ⟨_, rfl, stopsIn_ite.mpr ⟨fun _ => ?_, fun _ => stopsIn_ite.mpr ⟨fun _ => ?_, fun _ => ?_⟩⟩⟩
    · simp [Instr.opcode, possibleCodes, ErrCode.num]
    · simp [Instr.opcode, possibleCodes, ErrCode.num]
    · split <;> simp [Instr.opcode, possibleCodes, ErrCode.num]
  | idivnext rd rs1 rs2 =>
    refine .inl ⟨_, rfl, stopsIn_ite.mpr ⟨fun _ => ?_, fun _ => ?_⟩⟩
    · simp [Instr.opcode, possibleCodes, ErrCode.num]
    · split <;> simp [Instr.opcode, possibleCodes, ErrCode.num]
  | pdeg | padd | psub | pgcd | pxgcd | pderiv => exact .inl ⟨.ok _, rfl, stopsIn_ok _⟩
  | _ => exact .inl ⟨_, rfl, by simp [Instr.opcode, possibleCodes, ErrCode.num, listed_fatal]⟩

/-- Settles O20: a command stops for a listed reason only, and a result completes with code 0. -/
theorem codesAreThoseListed : Obligations.CodesAreThoseListed := by
  intro i s t h
  by_cases h35 : i.opcode = 0x35
  · obtain ⟨rd, rs1, rfl⟩ := exists_prandirr h35
    rcases execPrandirr_next rd rs1 s t h with rfl | ⟨w, rest, rfl⟩ | ⟨f, rest, rfl⟩ | ⟨d, -, -, -, rfl⟩
    · exact .inr (.inl (by simp [Instr.opcode, possibleCodes, ErrCode.num]))
    · exact .inl (by simp)
    · rw [code_fatal]
      exact .inr (.inl (listed_fatal (op := 0x35) (by simp [possibleCodes]) f))
    · exact .inr (.inr ⟨rfl, by simp, rfl⟩)
  · rcases exec_stopsIn_listed i s h35 with ⟨r, hr, hstop⟩ | ⟨h7, s1, -, hr⟩
    · rcases finish_next (hr ▸ h) with ⟨s', -, rfl⟩ | ⟨e, rfl, rfl⟩ | ⟨f, rfl, rfl⟩
      · exact .inl (by simp)
      · rw [code_raise]
        exact .inr (.inl (hstop _ rfl))
      · rw [code_fatal]
        exact .inr (.inl (hstop _ rfl))
    · obtain rfl : raise .construct s1 = t := by simpa using hr.symm.trans h
      rw [code_raise]
      exact .inr (.inl h7)

/-! ## How a command ends -/

/-- Settles O18: a result keeps the error record, and every other end is an error taken in the state before, or in that
state with the context invalidated. -/
theorem howCommandsEnd : Obligations.HowCommandsEnd := by
  intro i s t h
  by_cases h35 : i.opcode = 0x35
  · obtain ⟨rd, rs1, rfl⟩ := exists_prandirr h35
    rcases execPrandirr_next rd rs1 s t h with rfl | ⟨w, rest, rfl⟩ | ⟨f, rest, rfl⟩ | ⟨d, -, -, -, rfl⟩
    · exact .inr (.inl ⟨.undef, rfl⟩)
    · exact .inl (by simp)
    · exact .inr (.inr (.inr (.inr (.inr (.inl ⟨f, .inr ⟨rfl, rfl⟩⟩)))))
    · exact .inr (.inr (.inr (.inr (.inr (.inr ⟨rfl, by simp, rfl⟩)))))
  · rcases exec_stopsIn_listed i s h35 with ⟨r, hr, -⟩ | ⟨-, s1, h1, hr⟩
    · rcases finish_next (hr ▸ h) with ⟨s', -, rfl⟩ | ⟨e, -, rfl⟩ | ⟨f, -, rfl⟩
      · have hc : (s'.setCode 0).code = 0 := by simp
        exact .inl ⟨hc, (keeps_of_code_eq_zero h35 h hc).record⟩
      · exact .inr (.inl ⟨e, rfl⟩)
      · exact .inr (.inr (.inr (.inr (.inr (.inl ⟨f, .inl ⟨h35, rfl⟩⟩)))))
    · obtain rfl : raise .construct s1 = t := by simpa using hr.symm.trans h
      cases h1 with
      | here => exact .inr (.inl ⟨.construct, rfl⟩)
      | noMatrix hop => exact .inr (.inr (.inl ⟨hop, rfl⟩))
      | noPolyModulus hop => exact .inr (.inr (.inr (.inl ⟨hop, rfl⟩)))
      | noIntModulus hop => exact .inr (.inr (.inr (.inr (.inl ⟨hop, rfl⟩))))

end Sys2Proof.Machine
end

section
/-! PROOFS. The fatal state is entered from no sound state: the four internal checks never fail (60_exceptions.md
R289). -/

namespace Sys2Proof.Machine

/-! ## The internal checks -/

/-- A stop that is no fatal condition. -/
def Recoverable : Stop → Prop
  | .fatal _ => False
  | _ => True

@[simp] theorem recoverable_err (e : ErrCode) : Recoverable (.err e) := trivial
@[simp] theorem recoverable_fault (f : Fault) : Recoverable (.fault f) := trivial

/-- A command that needs a context meets no fatal condition, if it meets none where the context is valid. -/
theorem recoverable_needCtx {v : Bool} {k : Result} (h : v = true → StopsIn Recoverable k) :
    StopsIn Recoverable (needCtx v k) :=
  stopsIn_needCtx.mpr ⟨fun _ => trivial, h⟩

/-- Going on with the value of a helper that passes its internal checks. -/
theorem recoverable_onFatal {α : Type} {a : Except FatalCode α} {k : α → Result} {v : α} (ha : a = .ok v)
    (h : StopsIn Recoverable (k v)) : StopsIn Recoverable (onFatal a k) := by
  rw [ha]
  exact h

/-- The ops but PRANDIRR whose row of R282 lists a fatal condition. -/
def checkedOps : List (BitVec 8) := [0x1A, 0x31, 0x33, 0x34, 0x36, 0x71, 0x73, 0x75, 0x76]

theorem le_of_mem_possibleCodes :
    ∀ op : BitVec 8, op ∉ checkedOps → op ≠ 0x35 → ∀ c ∈ possibleCodes op.toNat, c ≤ 11 := by
  decide

/-- The commands with internal checks pass them in a sound state: kernel extraction by rank and nullity, the others as
factorisation answers for every word (R112, R162, R163). -/
theorem exec_recoverable {i : Instr} {s : State} (hi : Inv s) (h : i.opcode ∈ checkedOps) :
    ∃ r, exec i s = finish s r ∧ StopsIn Recoverable r := by
  have hphi (hv : s.pmodv = true) : ptotient s.pm = .ok (polyTotient s.pm) :=
    ptotient_eq (pm_ne_zero (hi.pmod hv)) s.pmod.isLt
  cases i <;> simp [Instr.opcode, checkedOps] at h
  case mker =>
    refine ⟨_, rfl, recoverable_needCtx fun _ => ?_⟩
    rw [hi.matRows_eq_matrix]
    exact recoverable_onFatal (kernelBasis_eq (matrix_lt s)) (by simp)
  case pfactor rs1 =>
    rcases pfactor_cases (u64_lt s rs1) with ⟨-, hf⟩ | ⟨-, l, hf, -⟩
    all_goals exact ⟨_, rfl, recoverable_onFatal hf (by simp [State.storeFactors])⟩
  case pirr rd rs1 =>
    obtain ⟨b, hb, -⟩ := exists_irr (u64_lt s rs1)
    exact ⟨_, rfl, recoverable_onFatal hb (by simp)⟩
  case plowirr rd rs1 =>
    refine ⟨_, rfl, stopsIn_ite.mpr ⟨fun _ => by simp, fun hd => ?_⟩⟩
    obtain ⟨c, -, hc, -⟩ := exists_lowestirr (d := (s.s64 rs1).toNat) (by omega) (by omega)
    exact recoverable_onFatal hc (by simp)
  case ptotient rd rs1 =>
    refine ⟨_, rfl, stopsIn_ite.mpr ⟨fun _ => by simp, fun hf => ?_⟩⟩
    exact recoverable_onFatal (ptotient_eq hf (u64_lt s rs1)) (by simp)
  case pmorder rd rs1 =>
    refine ⟨_, rfl, recoverable_needCtx fun hv => stopsIn_ite.mpr ⟨fun _ => ?_, fun _ => by simp⟩⟩
    exact recoverable_onFatal (hphi hv) (by simp)
  case pmmaxord rd =>
    refine ⟨_, rfl, recoverable_needCtx fun hv => stopsIn_ite.mpr ⟨fun _ => by simp, fun _ => ?_⟩⟩
    exact recoverable_onFatal (hphi hv) (by simp)
  case pmgen rd =>
    exact ⟨_, rfl, recoverable_needCtx fun hv => recoverable_onFatal (hphi hv) (by simp)⟩
  case pprim rd rs1 =>
    refine ⟨_, rfl, stopsIn_ite.mpr ⟨fun _ => by simp, fun hd => ?_⟩⟩
    have hm : s.u64 rs1 ≠ 0 := fun h0 => hd (by rw [h0]; rfl)
    obtain ⟨b, hb, -⟩ := exists_primitive_eq hm (u64_lt s rs1)
    exact recoverable_onFatal hb (by simp)

/-! ## No step ends in a fatal code -/

theorem ErrCode.num_le (e : ErrCode) : e.num ≤ 11 := by cases e <;> decide

theorem code_le_of_finish {s t : State} {r : Result} (hr : StopsIn Recoverable r) (h : finish s r = .next t) :
    t.code ≤ 11 := by
  rcases finish_next h with ⟨s', -, rfl⟩ | ⟨e, -, rfl⟩ | ⟨f, rfl, -⟩
  · simp
  · exact (code_raise e s).trans_le e.num_le
  · exact False.elim (hr _ rfl)

theorem candidate_lt {d : Nat} (hd : d ≤ 63) (w : Word) : candidate d w < 2 ^ 64 := by
  have hpow : 2 ^ d < 2 ^ 64 := Nat.pow_lt_pow_right one_lt_two (by omega)
  have hw : w.toNat % 2 ^ d < 2 ^ 64 := (Nat.mod_lt _ (Nat.two_pow_pos d)).trans hpow
  exact Nat.or_lt_two_pow (Nat.or_lt_two_pow hw (by rwa [Nat.one_shiftLeft])) (by decide)

theorem searchDraw_code_le {j : Search} {w : Word} {s t : State} (hd : j.degree ≤ 63) (hc : s.code ≤ 11)
    (h : searchDraw j w s = .next t) : t.code ≤ 11 := by
  obtain ⟨b, hb, -⟩ := exists_irr (candidate_lt hd w)
  cases b with
  | true =>
    rw [searchDraw_of_irr hb] at h
    cases h
    simp
  | false =>
    rw [searchDraw_of_not_irr hb] at h
    cases h
    exact hc

theorem searchSupplied_code_le {j : Search} {ws : List Word} {s t : State} (hd : j.degree ≤ 63) (hc : s.code ≤ 11)
    (h : searchSupplied j ws s = .next t) : t.code ≤ 11 := by
  induction ws with
  | nil =>
    cases h
    exact hc
  | cons w ws ih =>
    obtain ⟨b, hb, -⟩ := exists_irr (candidate_lt hd w)
    cases b with
    | true =>
      rw [searchSupplied_of_irr hb] at h
      cases h
      simp
    | false =>
      rw [searchSupplied, hb] at h
      exact ih h

/-- A command begun in a sound state ends in no fatal code, if the code before it was none. -/
theorem exec_code_le {i : Instr} {s t : State} (hi : Inv s) (hc : s.code ≤ 11) (h : exec i s = .next t) :
    t.code ≤ 11 := by
  by_cases hop : i.opcode ∈ checkedOps
  · obtain ⟨r, hr, hstop⟩ := exec_recoverable hi hop
    exact code_le_of_finish hstop (hr ▸ h)
  by_cases h35 : i.opcode = 0x35
  · obtain ⟨rd, rs1, rfl⟩ := exists_prandirr h35
    by_cases hd : s.s64 rs1 < 1 ∨ 63 < s.s64 rs1
    · obtain rfl : raise .undef s = t := by simpa using (execPrandirr_of_out hd).symm.trans h
      exact (code_raise .undef s).trans_le (ErrCode.num_le _)
    · rw [execPrandirr_of_degree (by omega) (by omega)] at h
      exact searchSupplied_code_le (by simp only; omega) hc h
  · rcases codesAreThoseListed i s t h with h0 | hlist | ⟨hop35, -, -⟩
    · omega
    · exact le_of_mem_possibleCodes _ hop h35 _ hlist
    · exact absurd hop35 h35

theorem runCmd_code_le {s t : State} (hi : Inv s) (hc : s.code ≤ 11) (h : runCmd s = .next t) : t.code ≤ 11 := by
  cases hd : decode s.cmd with
  | error e =>
    obtain rfl : raise .illegal s = t := by simpa using (runCmd_of_illegal hd).symm.trans h
    exact (code_raise .illegal s).trans_le (ErrCode.num_le _)
  | ok i => exact exec_code_le hi hc (runCmd_of_decode hd ▸ h)

theorem hostWrite_code_le {s t : State} {w : WinIndex} {v : Word} (hi : Inv s) (hc : s.code ≤ 11)
    (h : hostWrite w v s = .next t) : t.code ≤ 11 := by
  unfold hostWrite at h
  split at h
  · cases h
    exact hc
  split at h
  · cases h
    exact hc
  split at h
  · exact runCmd_code_le (s := { s with cmd := v }) { hi with } hc h
  split at h
  all_goals
    cases h
    exact hc

theorem code_draw (s : State) : s.draw.2.code = s.code := by
  unfold State.draw
  split <;> rfl

theorem step_code_le {s t : State} (hi : Inv s) (hc : s.code ≤ 11) (h : step s = .next t) : t.code ≤ 11 := by
  cases hr : s.resetLine with
  | true =>
    rw [step_of_reset hr] at h
    cases h
    exact (by decide : State.reset.code ≤ 11)
  | false =>
    cases hs : s.search with
    | some j =>
      rw [step_of_search hr hs] at h
      exact searchDraw_code_le (s := { s.draw.2 with search := none }) (hi.search j hs).2.1
        ((code_draw s).trans_le hc) h
    | none =>
      cases hq : s.hostq with
      | nil =>
        rw [step_of_idle hr hs hq] at h
        cases h
        exact hc
      | cons op q =>
        rw [step_of_hostq hr hs hq] at h
        cases op with
        | read w =>
          cases h
          exact hc
        | write w v => exact hostWrite_code_le (s := { s with hostq := q }) { hi with } hc h

theorem Inv.fatal_eq_false_iff {s : State} (hi : Inv s) : s.fatal = false ↔ s.code ≤ 11 := by
  rw [← Bool.not_eq_true, hi.fatalCode]
  have := hi.code
  omega

/-- Settles O16: in a sound state STATUS.fatal is told by the code, and no step of one ends in a fatal code. -/
theorem fatalStateUnreachable : Obligations.FatalStateUnreachable := fun s t hi hf h =>
  (stepKeepsSoundness s t hi h).fatal_eq_false_iff.mpr (step_code_le hi (hi.fatal_eq_false_iff.mp hf) h)

end Sys2Proof.Machine
end
